-- ==== Sys2Proof/Word.lean ====
section
/-!
DEFINITION. The data the block moves: bytes, frames, payloads, counters, times and its output port.
spec/00_scope.md R9 (bytes, frames, payloads), R8 (widths), spec/30_encoding.md R90 (port fields).
-/

namespace Sys2Proof

/-- A byte, 0..255 (R9). -/
abbrev Byte := BitVec 8

/-- A command code, frame byte 2 (R67). -/
abbrev CmdCode := BitVec 8

/-- A frame: a sequence of 13 bytes, `F[0]` first on the wire (R9, R60). -/
abbrev Frame := Vector Byte 13

/-- A payload: a sequence of 8 bytes (R9, R61). -/
abbrev Payload := Vector Byte 8

/-- The receive counter's word, CNT_W = 16 (R8, R28). -/
abbrev Count := BitVec 16

/-- The time word, TIME_W = 32 (R8, R30). -/
abbrev Time := BitVec 32

/-- The RES port's word (R90). -/
abbrev ResWord := BitVec 104

/-- A byte that is not zero: a count with constraint `>= 1` (R33). -/
abbrev PosByte := { n : Byte // n ≠ 0 }

end Sys2Proof
end

