-- ==== Sys2Proof/Config.lean ====
section
/-!
DEFINITION. What an implementation fixes: the constants of spec/00_scope.md R7 as named values, the parameters of R8, the static
descriptor configuration of spec/10_state.md R33; and the free values, constants without a body, for what the
spec leaves without a value.
-/

namespace Sys2Proof

/-- START_BYTE (R7). -/
def startByte : Byte := 0xA5

/-- LEN_BYTE (R7). -/
def lenByte : Byte := 0x08

/-- FRAME_SIZE (R7). -/
def frameSize : Nat := 13

/-- HEADER_SIZE (R7). -/
def headerSize : Nat := 4

/-- PAYLOAD_OFF (R7). -/
def payloadOff : Nat := 4

/-- PAYLOAD_SIZE (R7). -/
def payloadSize : Nat := 8

/-- CKSUM_OFF (R7). -/
def cksumOff : Nat := 12

/-- A named field with one possible value: a size or an offset of the frame, which the source fixes and on which the widths of
frames, payloads and words rest (R7, R9; log entry 20). -/
abbrev Fixed (n : Nat) := { m : Nat // m = n }

/-- The FAMILY of a present descriptor with the field of DESC_CFG it uses (R33). The type holds no illegal
configuration: FAMILY 3, a zero FIXEDCOUNT and a zero ITEMS_PER_FRAME do not exist in it (U19; log entry 18). -/
inductive Family where
  /-- FAMILY 0: expected count 1, sequence byte not checked. -/
  | single
  /-- FAMILY 1: FIXEDCOUNT frames, strict sequence byte. -/
  | seq (fixedCount : PosByte)
  /-- FAMILY 2: count computed from ITEMCOUNT and ITEMS_PER_FRAME, index byte checked. -/
  | array (itemsPerFrame : PosByte)
deriving DecidableEq, Repr

/-- The numeric FAMILY encoding (R33). -/
def Family.code : Family → BitVec 2
  | .single => 0
  | .seq _ => 1
  | .array _ => 2

/-- HDR_CHECK_AT, the value of RXIDX at which the header address test is made: 2 or 4 (R8, D4). -/
inductive HdrCheck where
  | afterAddress
  | afterHeader
deriving DecidableEq, Repr

/-- HDR_CHECK_AT as a number. -/
def HdrCheck.index : HdrCheck → Nat
  | .afterAddress => 2
  | .afterHeader => 4

/-- The static configuration: the constants of R7, the parameters of R8 with their defaults, and DESC_CFG (R33), `none`
where PRESENT = 0. Fixed before reset is released and never changed (R33; log entry 1). START_BYTE, LEN_BYTE and the two addresses
may take other values (U5, U9); the sizes and offsets have the one value of R7 (log entry 20). Every RX_ADDR_MIN and RX_ADDR_MAX
is admitted, a range without 0x01 or with no address at all included (DESIGN CHOICE, log entry 27; safe). -/
structure Configuration where
  startByte : Byte := Sys2Proof.startByte
  lenByte : Byte := Sys2Proof.lenByte
  frameSize : Fixed Sys2Proof.frameSize := ⟨Sys2Proof.frameSize, rfl⟩
  headerSize : Fixed Sys2Proof.headerSize := ⟨Sys2Proof.headerSize, rfl⟩
  payloadOff : Fixed Sys2Proof.payloadOff := ⟨Sys2Proof.payloadOff, rfl⟩
  payloadSize : Fixed Sys2Proof.payloadSize := ⟨Sys2Proof.payloadSize, rfl⟩
  cksumOff : Fixed Sys2Proof.cksumOff := ⟨Sys2Proof.cksumOff, rfl⟩
  addrDev2Host : Byte := 0x01
  addrHost2Dev : Byte := 0x40
  rxAddrMin : Byte := 0x00
  rxAddrMax : Byte := 0x3F
  hdrCheck : HdrCheck := .afterHeader
  bitLsb0 : Bool := true
  seqOff : Fin 8 := 0
  arrayOrderStrict : Bool := true
  descs : Vector (Option Family) 256
deriving DecidableEq, Repr

/-- Every parameter at its default of R7 and R8 and no descriptor present: R8 gives DESC_CFG no default
(DESIGN CHOICE, log entry 1; unsafe). -/
def Configuration.unconfigured : Configuration := { descs := Vector.replicate 256 none }

/-- FREE VALUE. The bits of RES to which the spec gives no value (U14, R90): the n-th draw (log entry 4; safe). -/
opaque Config.freeRes : Nat → ResWord

/-- FREE VALUE. The Boolean the link answers to a `write` for which `State.txok` holds no answer (U11, R71): the n-th
draw (log entry 9; safe). -/
opaque Config.freeWriteOk : Nat → Bool

/-- FREE VALUE. The content of RXBUF after a reset pulse (R41, U8): the n-th draw (log entry 2; safe). -/
opaque Config.freeRxbuf : Nat → Vector Byte 13

end Sys2Proof
end

