-- ==== Sys2Proof/Syntax.lean ====
section
/-!
DEFINITION. The instructions, one constructor per row of spec/opcode_table.json: 32 rows of format FRAME13 (a frame that
carries a listed command code, spec/30_encoding.md R80, R89) and 30 rows of format HOSTOP (an operation of the host
port with the port fields it uses, R90, R92).
-/

namespace Sys2Proof

/-- The two address roles (R90, R91): ROLE 0 = DEV2HOST, 1 = HOST2DEV. -/
inductive Role where
  | dev2host
  | host2dev
deriving DecidableEq, Repr

/-- The fields of a frame that a FRAME13 row leaves open: address, payload, checksum (R80). -/
structure OpenFields where
  address : Byte
  payload : Payload
  checksum : Byte
deriving DecidableEq, Repr

/-- An instruction of the block. A FRAME13 row carries the fields `b` of the frame that the row leaves open (R80);
a HOSTOP row carries the operand fields of the port it uses (R90). Every instruction that can sample the inputs NOW and
DECODE_OK carries their levels in its step, `now` and `ok` (R40, R176, R245; log entry 10). -/
inductive Instr where
  /-- CMD_RESET: a frame with command code 0x00 on the receive path (R89, R173). -/
  | cmdReset (b : OpenFields) (now : Time) (ok : Bool)
  /-- CMD_INFO_50: a frame with command code 0x50 on the receive path (R89, R173). -/
  | cmdInfo50 (b : OpenFields) (now : Time) (ok : Bool)
  /-- CMD_INFO_51: a frame with command code 0x51 on the receive path (R89, R173). -/
  | cmdInfo51 (b : OpenFields) (now : Time) (ok : Bool)
  /-- CMD_INFO_52: a frame with command code 0x52 on the receive path (R89, R173). -/
  | cmdInfo52 (b : OpenFields) (now : Time) (ok : Bool)
  /-- CMD_INFO_53: a frame with command code 0x53 on the receive path (R89, R173). -/
  | cmdInfo53 (b : OpenFields) (now : Time) (ok : Bool)
  /-- CMD_INFO_54: a frame with command code 0x54 on the receive path (R89, R173). -/
  | cmdInfo54 (b : OpenFields) (now : Time) (ok : Bool)
  /-- CMD_INFO_55: a frame with command code 0x55 on the receive path (R89, R173). -/
  | cmdInfo55 (b : OpenFields) (now : Time) (ok : Bool)
  /-- CMD_INFO_56: a frame with command code 0x56 on the receive path (R89, R173). -/
  | cmdInfo56 (b : OpenFields) (now : Time) (ok : Bool)
  /-- CMD_INFO_57: a frame with command code 0x57 on the receive path (R89, R173). -/
  | cmdInfo57 (b : OpenFields) (now : Time) (ok : Bool)
  /-- CMD_INFO_58: a frame with command code 0x58 on the receive path (R89, R173). -/
  | cmdInfo58 (b : OpenFields) (now : Time) (ok : Bool)
  /-- CMD_INFO_59: a frame with command code 0x59 on the receive path (R89, R173). -/
  | cmdInfo59 (b : OpenFields) (now : Time) (ok : Bool)
  /-- CMD_INFO_5A: a frame with command code 0x5A on the receive path (R89, R173). -/
  | cmdInfo5A (b : OpenFields) (now : Time) (ok : Bool)
  /-- CMD_INFO_5B: a frame with command code 0x5B on the receive path (R89, R173). -/
  | cmdInfo5B (b : OpenFields) (now : Time) (ok : Bool)
  /-- CMD_INFO_5C: a frame with command code 0x5C on the receive path (R89, R173). -/
  | cmdInfo5C (b : OpenFields) (now : Time) (ok : Bool)
  /-- CMD_INFO_5D: a frame with command code 0x5D on the receive path (R89, R173). -/
  | cmdInfo5D (b : OpenFields) (now : Time) (ok : Bool)
  /-- CMD_INFO_5E: a frame with command code 0x5E on the receive path (R89, R173). -/
  | cmdInfo5E (b : OpenFields) (now : Time) (ok : Bool)
  /-- CMD_INFO_5F: a frame with command code 0x5F on the receive path (R89, R173). -/
  | cmdInfo5F (b : OpenFields) (now : Time) (ok : Bool)
  /-- CMD_INFO_60: a frame with command code 0x60 on the receive path (R89, R173). -/
  | cmdInfo60 (b : OpenFields) (now : Time) (ok : Bool)
  /-- CMD_INFO_61: a frame with command code 0x61 on the receive path (R89, R173). -/
  | cmdInfo61 (b : OpenFields) (now : Time) (ok : Bool)
  /-- CMD_INFO_62: a frame with command code 0x62 on the receive path (R89, R173). -/
  | cmdInfo62 (b : OpenFields) (now : Time) (ok : Bool)
  /-- CMD_INFO_63: a frame with command code 0x63 on the receive path (R89, R173). -/
  | cmdInfo63 (b : OpenFields) (now : Time) (ok : Bool)
  /-- CMD_STATUS_90: a frame with command code 0x90 on the receive path (R89, R173). -/
  | cmdStatus90 (b : OpenFields) (now : Time) (ok : Bool)
  /-- CMD_STATUS_91: a frame with command code 0x91 on the receive path (R89, R173). -/
  | cmdStatus91 (b : OpenFields) (now : Time) (ok : Bool)
  /-- CMD_STATUS_92: a frame with command code 0x92 on the receive path (R89, R173). -/
  | cmdStatus92 (b : OpenFields) (now : Time) (ok : Bool)
  /-- CMD_STATUS_93: a frame with command code 0x93 on the receive path (R89, R173). -/
  | cmdStatus93 (b : OpenFields) (now : Time) (ok : Bool)
  /-- CMD_STATUS_94: a frame with command code 0x94 on the receive path (R89, R173). -/
  | cmdStatus94 (b : OpenFields) (now : Time) (ok : Bool)
  /-- CMD_STATUS_95: a frame with command code 0x95 on the receive path (R89, R173). -/
  | cmdStatus95 (b : OpenFields) (now : Time) (ok : Bool)
  /-- CMD_STATUS_96: a frame with command code 0x96 on the receive path (R89, R173). -/
  | cmdStatus96 (b : OpenFields) (now : Time) (ok : Bool)
  /-- CMD_STATUS_97: a frame with command code 0x97 on the receive path (R89, R173). -/
  | cmdStatus97 (b : OpenFields) (now : Time) (ok : Bool)
  /-- CMD_STATUS_98: a frame with command code 0x98 on the receive path (R89, R173). -/
  | cmdStatus98 (b : OpenFields) (now : Time) (ok : Bool)
  /-- CMD_DISCHARGE_MOSFET: a frame with command code 0xD9 on the receive path (R89, R173). -/
  | cmdDischargeMosfet (b : OpenFields) (now : Time) (ok : Bool)
  /-- CMD_CHARGE_MOSFET: a frame with command code 0xDA on the receive path (R89, R173). -/
  | cmdChargeMosfet (b : OpenFields) (now : Time) (ok : Bool)
  /-- CHECKSUM, OPSEL 0x01 (R111). -/
  | checksum (f : Frame)
  /-- ENCODE, OPSEL 0x02 (R112). -/
  | encode (c : CmdCode) (r : Role) (p : Payload)
  /-- DECODE, OPSEL 0x03 (R113). -/
  | decode (f : Frame)
  /-- VALIDATE, OPSEL 0x04 (R114). -/
  | validate (f : Frame) (r : Role)
  /-- GETU8, OPSEL 0x05 (R115). -/
  | getU8 (f : Frame) (off : Byte)
  /-- GETU16, OPSEL 0x06 (R116). -/
  | getU16 (f : Frame) (off : Byte)
  /-- GETU32, OPSEL 0x07 (R117). -/
  | getU32 (f : Frame) (off : Byte)
  /-- GETBIT, OPSEL 0x08 (R118). -/
  | getBit (f : Frame) (off bitpos : Byte)
  /-- GETBITL, OPSEL 0x09 (R119). -/
  | getBitL (f : Frame) (idx : Byte)
  /-- DEC_DECI, OPSEL 0x0A (R211). -/
  | decDeci (f : Frame) (off : Byte)
  /-- DEC_MILLI, OPSEL 0x0B (R212). -/
  | decMilli (f : Frame) (off : Byte)
  /-- DEC_CURRENT, OPSEL 0x0C (R213). -/
  | decCurrent (f : Frame) (off : Byte)
  /-- DEC_TEMP, OPSEL 0x0D (R214). -/
  | decTemp (f : Frame) (off : Byte)
  /-- DEC_DURATION, OPSEL 0x0E (R215). -/
  | decDuration (f : Frame) (off : Byte)
  /-- DEC_BITS, OPSEL 0x0F (R216). -/
  | decBits (f : Frame) (off : Byte)
  /-- RXPOLL, OPSEL 0x10 (R145). -/
  | rxPoll (now : Time) (ok : Bool)
  /-- DRAIN, OPSEL 0x11 (R147). -/
  | drain (now : Time) (ok : Bool)
  /-- TXFRAME, OPSEL 0x12 (R148). -/
  | txFrame (f : Frame) (now : Time) (ok : Bool)
  /-- RXBYTE, OPSEL 0x13 (R140). -/
  | rxByte (b : Byte) (now : Time) (ok : Bool)
  /-- DEC_TRIPLE, OPSEL 0x14 (R217). -/
  | decTriple (f : Frame) (off : Byte)
  /-- DEC_SCALED16, OPSEL 0x15 (R218). -/
  | decScaled16 (f : Frame) (off : Byte) (divisor : BitVec 32)
  /-- DEC_SCALED32, OPSEL 0x16 (R219). -/
  | decScaled32 (f : Frame) (off : Byte) (divisor : BitVec 32)
  /-- PREPARE, OPSEL 0x18 (R172). -/
  | prepare (c : CmdCode) (p : Payload)
  /-- ROUTE, OPSEL 0x19 (R173). -/
  | route (f : Frame) (now : Time) (ok : Bool)
  /-- SETVALID, OPSEL 0x1A (R180). -/
  | setValid (c : CmdCode) (now : Time)
  /-- ISREQ, OPSEL 0x1B (R181). -/
  | isReq (c : CmdCode)
  /-- ISVALID, OPSEL 0x1C (R182). -/
  | isValid (c : CmdCode)
  /-- LASTVALID, OPSEL 0x1D (R184). -/
  | lastValid (c : CmdCode)
  /-- SETCOUNT, OPSEL 0x1E (R183). -/
  | setCount (c : CmdCode) (count : Byte)
  /-- PROCESS, OPSEL 0x1F (R174). -/
  | process (f : Frame) (now : Time) (ok : Bool)
deriving DecidableEq, Repr

/-- The input fields of the host port (R90). The spec gives the port named fields and no placement of them in one word, so
the model holds them as fields (log entry 5). The defaults are 0, DECODE_OK's is 1 (R8, D12). -/
structure PortIn where
  f : BitVec 104 := 0
  pay : BitVec 64 := 0
  now : BitVec 32 := 0
  divisor : BitVec 32 := 0
  byte : BitVec 8 := 0
  count : BitVec 8 := 0
  bitpos : BitVec 8 := 0
  off : BitVec 8 := 0
  cmd : BitVec 8 := 0
  decodeOk : BitVec 1 := 1
  role : BitVec 1 := 0
  opsel : BitVec 5 := 0
deriving DecidableEq, Repr

/-- An encoded instruction: the input fields of the host port (R90), or the 104-bit word of a frame (R81) beside the levels of
the inputs NOW and DECODE_OK in the step that receives it (R40; log entry 10). -/
inductive Encoded where
  | op (q : PortIn)
  | frame (w : BitVec 104) (now : Time) (ok : Bool)
deriving DecidableEq, Repr

/-- The command code and the open fields of a FRAME13 instruction, and the levels of NOW and DECODE_OK in its step; `none` for a
host operation (R80, R89). -/
def Instr.frameFields : Instr → Option (CmdCode × OpenFields × Time × Bool)
  | .cmdReset b now ok => some (0x00, b, now, ok)
  | .cmdInfo50 b now ok => some (0x50, b, now, ok)
  | .cmdInfo51 b now ok => some (0x51, b, now, ok)
  | .cmdInfo52 b now ok => some (0x52, b, now, ok)
  | .cmdInfo53 b now ok => some (0x53, b, now, ok)
  | .cmdInfo54 b now ok => some (0x54, b, now, ok)
  | .cmdInfo55 b now ok => some (0x55, b, now, ok)
  | .cmdInfo56 b now ok => some (0x56, b, now, ok)
  | .cmdInfo57 b now ok => some (0x57, b, now, ok)
  | .cmdInfo58 b now ok => some (0x58, b, now, ok)
  | .cmdInfo59 b now ok => some (0x59, b, now, ok)
  | .cmdInfo5A b now ok => some (0x5A, b, now, ok)
  | .cmdInfo5B b now ok => some (0x5B, b, now, ok)
  | .cmdInfo5C b now ok => some (0x5C, b, now, ok)
  | .cmdInfo5D b now ok => some (0x5D, b, now, ok)
  | .cmdInfo5E b now ok => some (0x5E, b, now, ok)
  | .cmdInfo5F b now ok => some (0x5F, b, now, ok)
  | .cmdInfo60 b now ok => some (0x60, b, now, ok)
  | .cmdInfo61 b now ok => some (0x61, b, now, ok)
  | .cmdInfo62 b now ok => some (0x62, b, now, ok)
  | .cmdInfo63 b now ok => some (0x63, b, now, ok)
  | .cmdStatus90 b now ok => some (0x90, b, now, ok)
  | .cmdStatus91 b now ok => some (0x91, b, now, ok)
  | .cmdStatus92 b now ok => some (0x92, b, now, ok)
  | .cmdStatus93 b now ok => some (0x93, b, now, ok)
  | .cmdStatus94 b now ok => some (0x94, b, now, ok)
  | .cmdStatus95 b now ok => some (0x95, b, now, ok)
  | .cmdStatus96 b now ok => some (0x96, b, now, ok)
  | .cmdStatus97 b now ok => some (0x97, b, now, ok)
  | .cmdStatus98 b now ok => some (0x98, b, now, ok)
  | .cmdDischargeMosfet b now ok => some (0xD9, b, now, ok)
  | .cmdChargeMosfet b now ok => some (0xDA, b, now, ok)
  | .checksum _ => none
  | .encode _ _ _ => none
  | .decode _ => none
  | .validate _ _ => none
  | .getU8 _ _ => none
  | .getU16 _ _ => none
  | .getU32 _ _ => none
  | .getBit _ _ _ => none
  | .getBitL _ _ => none
  | .decDeci _ _ => none
  | .decMilli _ _ => none
  | .decCurrent _ _ => none
  | .decTemp _ _ => none
  | .decDuration _ _ => none
  | .decBits _ _ => none
  | .rxPoll _ _ => none
  | .drain _ _ => none
  | .txFrame _ _ _ => none
  | .rxByte _ _ _ => none
  | .decTriple _ _ => none
  | .decScaled16 _ _ _ => none
  | .decScaled32 _ _ _ => none
  | .prepare _ _ => none
  | .route _ _ _ => none
  | .setValid _ _ => none
  | .isReq _ => none
  | .isValid _ => none
  | .lastValid _ => none
  | .setCount _ _ => none
  | .process _ _ _ => none

end Sys2Proof
end

