-- ==== Sys2Proof/Decode.lean ====
section
/-!
DEFINITION. Decoding and encoding: the frame word of spec/30_encoding.md R80, R81 and the host port of R90, R92.
`decode` is total and rejects by name; `encode` writes the word of an instruction from the same tables.
-/

namespace Sys2Proof

/-- A frame as one 104-bit number, byte 0 most significant (R81). -/
def frameToWord (f : Frame) : BitVec 104 :=
  f[0] ++ f[1] ++ f[2] ++ f[3] ++ f[4] ++ f[5] ++ f[6] ++ f[7] ++ f[8] ++ f[9] ++ f[10] ++ f[11] ++ f[12]

/-- The frame of a 104-bit number: byte i occupies bits 103 - 8i down to 96 - 8i (R81). -/
def wordToFrame (w : BitVec 104) : Frame :=
  #v[w.extractLsb' 96 8, w.extractLsb' 88 8, w.extractLsb' 80 8, w.extractLsb' 72 8, w.extractLsb' 64 8,
     w.extractLsb' 56 8, w.extractLsb' 48 8, w.extractLsb' 40 8, w.extractLsb' 32 8, w.extractLsb' 24 8,
     w.extractLsb' 16 8, w.extractLsb' 8 8, w.extractLsb' 0 8]

/-- A payload as the 64-bit PAY field: PAY[63:56] is payload byte 0 (R90). -/
def payloadToWord (p : Payload) : BitVec 64 :=
  p[0] ++ p[1] ++ p[2] ++ p[3] ++ p[4] ++ p[5] ++ p[6] ++ p[7]

/-- The payload of a 64-bit PAY field (R90). -/
def wordToPayload (w : BitVec 64) : Payload :=
  #v[w.extractLsb' 56 8, w.extractLsb' 48 8, w.extractLsb' 40 8, w.extractLsb' 32 8, w.extractLsb' 24 8,
     w.extractLsb' 16 8, w.extractLsb' 8 8, w.extractLsb' 0 8]

/-- A frame from its six fields in wire order (R80). -/
def assemble (start a c len : Byte) (p : Payload) (k : Byte) : Frame :=
  #v[start, a, c, len, p[0], p[1], p[2], p[3], p[4], p[5], p[6], p[7], k]

/-- The frame of a row of the table: start and length bytes as the row fixes them, command `c`, the open fields `b` (R80). -/
def mkFrame (c : CmdCode) (b : OpenFields) : Frame := assemble startByte b.address c lenByte b.payload b.checksum

/-- The payload bytes 4..11 of a frame (R61). -/
def payloadOf (f : Frame) : Payload := #v[f[4], f[5], f[6], f[7], f[8], f[9], f[10], f[11]]

/-- ROLE 0 is DEV2HOST, 1 is HOST2DEV (R90). -/
def roleOfBit (b : BitVec 1) : Role := if b = 1#1 then .host2dev else .dev2host

/-- The ROLE bit of a role (R90). -/
def bitOfRole : Role → BitVec 1
  | .dev2host => 0
  | .host2dev => 1

/-- Why a word is no instruction of the table. -/
inductive DecodeError where
  /-- OPSEL 0x00 or 0x17 (R94): the port answers ST_ILLEGAL_OP. -/
  | reservedOpsel (opsel : BitVec 5)
  /-- A frame word whose byte 0 is not 0xA5 (R80): no row of the table. -/
  | badStart (b : Byte)
  /-- A frame word whose byte 3 is not 0x08 (R80): no row of the table. -/
  | badLength (b : Byte)
  /-- A frame word with one of the 224 command codes the table does not list (R89). -/
  | unlistedCommand (c : CmdCode)
deriving DecidableEq, Repr

/-- The FRAME13 row of a command code (R89). -/
def decodeCommand (c : CmdCode) (b : OpenFields) (now : Time) (ok : Bool) : Except DecodeError Instr :=
  match c with
  | 0x00#8 => .ok (.cmdReset b now ok)
  | 0x50#8 => .ok (.cmdInfo50 b now ok)
  | 0x51#8 => .ok (.cmdInfo51 b now ok)
  | 0x52#8 => .ok (.cmdInfo52 b now ok)
  | 0x53#8 => .ok (.cmdInfo53 b now ok)
  | 0x54#8 => .ok (.cmdInfo54 b now ok)
  | 0x55#8 => .ok (.cmdInfo55 b now ok)
  | 0x56#8 => .ok (.cmdInfo56 b now ok)
  | 0x57#8 => .ok (.cmdInfo57 b now ok)
  | 0x58#8 => .ok (.cmdInfo58 b now ok)
  | 0x59#8 => .ok (.cmdInfo59 b now ok)
  | 0x5A#8 => .ok (.cmdInfo5A b now ok)
  | 0x5B#8 => .ok (.cmdInfo5B b now ok)
  | 0x5C#8 => .ok (.cmdInfo5C b now ok)
  | 0x5D#8 => .ok (.cmdInfo5D b now ok)
  | 0x5E#8 => .ok (.cmdInfo5E b now ok)
  | 0x5F#8 => .ok (.cmdInfo5F b now ok)
  | 0x60#8 => .ok (.cmdInfo60 b now ok)
  | 0x61#8 => .ok (.cmdInfo61 b now ok)
  | 0x62#8 => .ok (.cmdInfo62 b now ok)
  | 0x63#8 => .ok (.cmdInfo63 b now ok)
  | 0x90#8 => .ok (.cmdStatus90 b now ok)
  | 0x91#8 => .ok (.cmdStatus91 b now ok)
  | 0x92#8 => .ok (.cmdStatus92 b now ok)
  | 0x93#8 => .ok (.cmdStatus93 b now ok)
  | 0x94#8 => .ok (.cmdStatus94 b now ok)
  | 0x95#8 => .ok (.cmdStatus95 b now ok)
  | 0x96#8 => .ok (.cmdStatus96 b now ok)
  | 0x97#8 => .ok (.cmdStatus97 b now ok)
  | 0x98#8 => .ok (.cmdStatus98 b now ok)
  | 0xD9#8 => .ok (.cmdDischargeMosfet b now ok)
  | 0xDA#8 => .ok (.cmdChargeMosfet b now ok)
  | _ => .error (.unlistedCommand c)

/-- The FRAME13 row of a frame: start and length bytes as the row fixes them, then the command code (R80, R81). -/
def decodeFrame (f : Frame) (now : Time) (ok : Bool) : Except DecodeError Instr :=
  if f[0] ≠ startByte then .error (.badStart f[0])
  else if f[3] ≠ lenByte then .error (.badLength f[3])
  else decodeCommand f[2] ⟨f[1], payloadOf f, f[cksumOff]'(by decide)⟩ now ok

/-- The HOSTOP row selected by OPSEL, with its operands from the port's fields (R90, R92). -/
def decodePort (q : PortIn) : Except DecodeError Instr :=
  match q.opsel with
  | 0x01#5 => .ok (.checksum (wordToFrame q.f))
  | 0x02#5 => .ok (.encode q.cmd (roleOfBit q.role) (wordToPayload q.pay))
  | 0x03#5 => .ok (.decode (wordToFrame q.f))
  | 0x04#5 => .ok (.validate (wordToFrame q.f) (roleOfBit q.role))
  | 0x05#5 => .ok (.getU8 (wordToFrame q.f) q.off)
  | 0x06#5 => .ok (.getU16 (wordToFrame q.f) q.off)
  | 0x07#5 => .ok (.getU32 (wordToFrame q.f) q.off)
  | 0x08#5 => .ok (.getBit (wordToFrame q.f) q.off q.bitpos)
  | 0x09#5 => .ok (.getBitL (wordToFrame q.f) q.off)
  | 0x0A#5 => .ok (.decDeci (wordToFrame q.f) q.off)
  | 0x0B#5 => .ok (.decMilli (wordToFrame q.f) q.off)
  | 0x0C#5 => .ok (.decCurrent (wordToFrame q.f) q.off)
  | 0x0D#5 => .ok (.decTemp (wordToFrame q.f) q.off)
  | 0x0E#5 => .ok (.decDuration (wordToFrame q.f) q.off)
  | 0x0F#5 => .ok (.decBits (wordToFrame q.f) q.off)
  | 0x10#5 => .ok (.rxPoll q.now (q.decodeOk == 1#1))
  | 0x11#5 => .ok (.drain q.now (q.decodeOk == 1#1))
  | 0x12#5 => .ok (.txFrame (wordToFrame q.f) q.now (q.decodeOk == 1#1))
  | 0x13#5 => .ok (.rxByte q.byte q.now (q.decodeOk == 1#1))
  | 0x14#5 => .ok (.decTriple (wordToFrame q.f) q.off)
  | 0x15#5 => .ok (.decScaled16 (wordToFrame q.f) q.off q.divisor)
  | 0x16#5 => .ok (.decScaled32 (wordToFrame q.f) q.off q.divisor)
  | 0x18#5 => .ok (.prepare q.cmd (wordToPayload q.pay))
  | 0x19#5 => .ok (.route (wordToFrame q.f) q.now (q.decodeOk == 1#1))
  | 0x1A#5 => .ok (.setValid q.cmd q.now)
  | 0x1B#5 => .ok (.isReq q.cmd)
  | 0x1C#5 => .ok (.isValid q.cmd)
  | 0x1D#5 => .ok (.lastValid q.cmd)
  | 0x1E#5 => .ok (.setCount q.cmd q.count)
  | 0x1F#5 => .ok (.process (wordToFrame q.f) q.now (q.decodeOk == 1#1))
  | _ => .error (.reservedOpsel q.opsel)

/-- The instruction of an encoded word, or the name of the reason there is none (R80, R92, R94). -/
def decode : Encoded → Except DecodeError Instr
  | .op q => decodePort q
  | .frame w now ok => decodeFrame (wordToFrame w) now ok

/-- The word of a FRAME13 instruction (R80, R81). -/
def encodeCommand (c : CmdCode) (b : OpenFields) (now : Time) (ok : Bool) : Encoded :=
  .frame (frameToWord (mkFrame c b)) now ok

/-- The word of an instruction: the frame's 13 bytes, or the port's fields, at their default where the operation does not use
one (R80, R81, R90, R92). -/
def encode : Instr → Encoded
  | .cmdReset b now ok => encodeCommand 0x00 b now ok
  | .cmdInfo50 b now ok => encodeCommand 0x50 b now ok
  | .cmdInfo51 b now ok => encodeCommand 0x51 b now ok
  | .cmdInfo52 b now ok => encodeCommand 0x52 b now ok
  | .cmdInfo53 b now ok => encodeCommand 0x53 b now ok
  | .cmdInfo54 b now ok => encodeCommand 0x54 b now ok
  | .cmdInfo55 b now ok => encodeCommand 0x55 b now ok
  | .cmdInfo56 b now ok => encodeCommand 0x56 b now ok
  | .cmdInfo57 b now ok => encodeCommand 0x57 b now ok
  | .cmdInfo58 b now ok => encodeCommand 0x58 b now ok
  | .cmdInfo59 b now ok => encodeCommand 0x59 b now ok
  | .cmdInfo5A b now ok => encodeCommand 0x5A b now ok
  | .cmdInfo5B b now ok => encodeCommand 0x5B b now ok
  | .cmdInfo5C b now ok => encodeCommand 0x5C b now ok
  | .cmdInfo5D b now ok => encodeCommand 0x5D b now ok
  | .cmdInfo5E b now ok => encodeCommand 0x5E b now ok
  | .cmdInfo5F b now ok => encodeCommand 0x5F b now ok
  | .cmdInfo60 b now ok => encodeCommand 0x60 b now ok
  | .cmdInfo61 b now ok => encodeCommand 0x61 b now ok
  | .cmdInfo62 b now ok => encodeCommand 0x62 b now ok
  | .cmdInfo63 b now ok => encodeCommand 0x63 b now ok
  | .cmdStatus90 b now ok => encodeCommand 0x90 b now ok
  | .cmdStatus91 b now ok => encodeCommand 0x91 b now ok
  | .cmdStatus92 b now ok => encodeCommand 0x92 b now ok
  | .cmdStatus93 b now ok => encodeCommand 0x93 b now ok
  | .cmdStatus94 b now ok => encodeCommand 0x94 b now ok
  | .cmdStatus95 b now ok => encodeCommand 0x95 b now ok
  | .cmdStatus96 b now ok => encodeCommand 0x96 b now ok
  | .cmdStatus97 b now ok => encodeCommand 0x97 b now ok
  | .cmdStatus98 b now ok => encodeCommand 0x98 b now ok
  | .cmdDischargeMosfet b now ok => encodeCommand 0xD9 b now ok
  | .cmdChargeMosfet b now ok => encodeCommand 0xDA b now ok
  | .checksum f => .op { opsel := 0x01, f := frameToWord f }
  | .encode c r p => .op { opsel := 0x02, cmd := c, role := bitOfRole r, pay := payloadToWord p }
  | .decode f => .op { opsel := 0x03, f := frameToWord f }
  | .validate f r => .op { opsel := 0x04, f := frameToWord f, role := bitOfRole r }
  | .getU8 f off => .op { opsel := 0x05, f := frameToWord f, off := off }
  | .getU16 f off => .op { opsel := 0x06, f := frameToWord f, off := off }
  | .getU32 f off => .op { opsel := 0x07, f := frameToWord f, off := off }
  | .getBit f off bitpos => .op { opsel := 0x08, f := frameToWord f, off := off, bitpos := bitpos }
  | .getBitL f idx => .op { opsel := 0x09, f := frameToWord f, off := idx }
  | .decDeci f off => .op { opsel := 0x0A, f := frameToWord f, off := off }
  | .decMilli f off => .op { opsel := 0x0B, f := frameToWord f, off := off }
  | .decCurrent f off => .op { opsel := 0x0C, f := frameToWord f, off := off }
  | .decTemp f off => .op { opsel := 0x0D, f := frameToWord f, off := off }
  | .decDuration f off => .op { opsel := 0x0E, f := frameToWord f, off := off }
  | .decBits f off => .op { opsel := 0x0F, f := frameToWord f, off := off }
  | .rxPoll now ok => .op { opsel := 0x10, now := now, decodeOk := BitVec.ofBool ok }
  | .drain now ok => .op { opsel := 0x11, now := now, decodeOk := BitVec.ofBool ok }
  | .txFrame f now ok => .op { opsel := 0x12, f := frameToWord f, now := now, decodeOk := BitVec.ofBool ok }
  | .rxByte b now ok => .op { opsel := 0x13, byte := b, now := now, decodeOk := BitVec.ofBool ok }
  | .decTriple f off => .op { opsel := 0x14, f := frameToWord f, off := off }
  | .decScaled16 f off divisor => .op { opsel := 0x15, f := frameToWord f, off := off, divisor := divisor }
  | .decScaled32 f off divisor => .op { opsel := 0x16, f := frameToWord f, off := off, divisor := divisor }
  | .prepare c p => .op { opsel := 0x18, cmd := c, pay := payloadToWord p }
  | .route f now ok => .op { opsel := 0x19, f := frameToWord f, now := now, decodeOk := BitVec.ofBool ok }
  | .setValid c now => .op { opsel := 0x1A, cmd := c, now := now }
  | .isReq c => .op { opsel := 0x1B, cmd := c }
  | .isValid c => .op { opsel := 0x1C, cmd := c }
  | .lastValid c => .op { opsel := 0x1D, cmd := c }
  | .setCount c count => .op { opsel := 0x1E, cmd := c, count := count }
  | .process f now ok => .op { opsel := 0x1F, f := frameToWord f, now := now, decodeOk := BitVec.ofBool ok }

/-- The encoded word of `nbits` bits numbered as the table numbers them: 104 bits are a frame word (FRAME13); one byte is
OPSEL in bits 4:0 (HOSTOP), every other operand of the port 0. The inputs NOW and DECODE_OK are no bits of a word of the table: NOW
is 0, DECODE_OK is at its default, true (R8, D12, R97; log entry 5). -/
def tableWord (nbits w : Nat) : Option Encoded :=
  if nbits = 104 then some (.frame (BitVec.ofNat 104 w) 0 true)
  else if nbits ≤ 8 then some (.op { opsel := BitVec.ofNat 5 w })
  else none

/-- The instruction the decoder reads from a word of the opcode table. -/
def decodeTableWord (nbits w : Nat) : Option Instr :=
  match tableWord nbits w with
  | none => none
  | some e =>
    match decode e with
    | .ok i => some i
    | .error _ => none

end Sys2Proof
end

