-- ==== Sys2Proof/Machine/Operands.lean ====
section
/-!
DEFINITION. The operand forms, pure functions of operands: checksum, building and validating a frame, the window read
primitive, bit selection, and the packed results of the port (spec/20_memory.md R60 to R66, spec/40_codec.md,
spec/43_value_decoders.md R210).
-/

namespace Sys2Proof.Machine

/-- The checksum of a frame: the sum of bytes 0..11 modulo 256; byte 12 is not read (R111). -/
def checksum (f : Frame) : Byte :=
  BitVec.ofNat 8 (f[0].toNat + f[1].toNat + f[2].toNat + f[3].toNat + f[4].toNat + f[5].toNat + f[6].toNat +
    f[7].toNat + f[8].toNat + f[9].toNat + f[10].toNat + f[11].toNat)

/-- `Addr(role)`, the address byte of a role (R110, R7). -/
def roleAddr (cfg : Configuration) : Role → Byte
  | .dev2host => cfg.addrDev2Host
  | .host2dev => cfg.addrHost2Dev

/-- `ENCODE(cmd, role, P)`: header fields, payload copied, checksum stored at byte 12 (R112). -/
def encodeFrame (cfg : Configuration) (c : CmdCode) (r : Role) (p : Payload) : Frame :=
  let fields := assemble cfg.startByte (roleAddr cfg r) c cfg.lenByte p
  fields (checksum (fields 0))

/-- The checksum byte of a frame, at CKSUM_OFF (R7, R80). -/
def checksumByte (cfg : Configuration) (f : Frame) : Byte := f[cfg.cksumOff.val]'(by rw [cfg.cksumOff.property]; decide)

/-- `VALIDATE(F, role)`: start, address, length and checksum all match (R114). The command byte is not tested. -/
def validate (cfg : Configuration) (f : Frame) (r : Role) : Bool :=
  f[0] == cfg.startByte && f[1] == roleAddr cfg r && f[3] == cfg.lenByte && checksumByte cfg f == checksum f

/-- `ErrMask(F, role)`: the set of failed tests, bit 0 start, 1 address, 2 length, 3 checksum (R120). -/
def errMask (cfg : Configuration) (f : Frame) (r : Role) : BitVec 4 :=
  BitVec.ofBool (checksumByte cfg f != checksum f) ++ BitVec.ofBool (f[3] != cfg.lenByte) ++
    BitVec.ofBool (f[1] != roleAddr cfg r) ++ BitVec.ofBool (f[0] != cfg.startByte)

/-- The command code of a frame, byte 2 (R67, R171). -/
def cmdOf (f : Frame) : CmdCode := f[2]

/-- The sequence byte of a frame: payload offset SEQ_OFF (R85, R170). -/
def seqByte (cfg : Configuration) (f : Frame) : Byte := (payloadOf f)[cfg.seqOff]

/-- The unsigned big-endian integer of a list of bytes, the first byte most significant (R63, R64). -/
def bigEndian (bs : List Byte) : Nat := bs.foldl (fun v b => v * 256 + b.toNat) 0

/-- `n` bytes of the payload window from payload offset `off`; nothing where the access leaves the window (R61, R63). -/
def windowBytes (cfg : Configuration) (f : Frame) (off n : Nat) : Option (List Byte) :=
  if off + n > cfg.payloadSize.val then none else some ((f.toList.drop (cfg.payloadOff.val + off)).take n)

/-- `MemRead(F, off, n)`: the big-endian integer of `n` window bytes; `none` stands for the WindowFault (R63). -/
def memRead (cfg : Configuration) (f : Frame) (off n : Nat) : Option Nat := (windowBytes cfg f off n).map bigEndian

/-- Bit position `pos` of a byte: counted from the least significant bit with BIT_LSB0, mirrored without it
(R9, R118, D5; log entry 17). -/
def byteBit (cfg : Configuration) (b : Byte) (pos : Nat) : Bool :=
  b.getLsbD (if cfg.bitLsb0 then pos else 7 - pos)

/-- `min(v, 65535)` on the receive counter (R9, R28). -/
def sat16 (v : Nat) : Count := BitVec.ofNat 16 (min v 65535)

/-- `ceil_div(a, b) = (a + b - 1) div b` for `b >= 1` (R9). -/
def ceilDiv (a b : Nat) : Nat := (a + b - 1) / b

/-- A word of RES whose low `k` bits are those of `v` and whose other bits, if any, are those of `free` (log entry 4). -/
def overlay (k : Nat) (v free : ResWord) : ResWord :=
  if 104 ≤ k then v else (free >>> k) <<< k ||| v &&& ~~~(BitVec.allOnes 104 <<< k)

/-- A Boolean in bit 0 of RES (R90). -/
def boolRes (b : Bool) : ResWord := if b then 1 else 0

/-- A number on RES (R90). -/
def natRes (v : Nat) : ResWord := BitVec.ofNat 104 v

/-- A frame on RES, 104 bits (R81, R90). -/
def frameRes (f : Frame) : ResWord := frameToWord f

/-- `F[1] ++ F[2] ++ F[4] ++ … ++ F[11]` in the low 80 bits of RES (R113). -/
def decodedRes (f : Frame) : ResWord :=
  (f[1] ++ f[2] ++ f[4] ++ f[5] ++ f[6] ++ f[7] ++ f[8] ++ f[9] ++ f[10] ++ f[11] : BitVec 80).setWidth 104

/-- A rational on RES: `num` as a 33-bit two's-complement integer above `den` as a 32-bit unsigned one (R210; their
places are a DESIGN CHOICE, log entry 14; safe). -/
def rationalRes (num : Int) (den : Nat) : ResWord :=
  (BitVec.ofInt 33 num ++ BitVec.ofNat 32 den : BitVec 65).setWidth 104

/-- Three bytes on RES, the first most significant (R217; DESIGN CHOICE, log entry 14; safe). -/
def tripleRes (a b c : Byte) : ResWord := (a ++ b ++ c : BitVec 24).setWidth 104

end Sys2Proof.Machine
end

