-- ==== Sys2Proof/Machine/State.lean ====
section
/-!
DEFINITION. The state of the machine as plain data: every register of spec/10_state.md R20, the port's last answer
(spec/30_encoding.md R90), the environment the spec names (spec/10_state.md R39, R40), the model's own fields, the faults and
refusals, and the state after reset (R42).
-/

namespace Sys2Proof.Machine

/-- PSTATE: 0 = WaitingForStart, 1 = ProcessingHeader, 2 = ProcessingContent (R22). -/
inductive PState where
  | wfs
  | hdr
  | cnt
deriving DecidableEq, Repr

/-- The 2-bit encoding of PSTATE (R22). -/
def PState.code : PState → BitVec 2
  | .wfs => 0
  | .hdr => 1
  | .cnt => 2

/-- The dynamic registers of one descriptor row (R27 to R32). -/
structure Desc where
  /-- RXCNT[c], 16 bits (R28). -/
  rxcnt : Count := 0
  /-- VALID[c] (R29). -/
  valid : Bool := false
  /-- VTIME[c], 32 bits (R30). -/
  vtime : Time := 0
  /-- BLOCKED[c] (R31). -/
  blocked : Bool := false
  /-- ITEMCOUNT[c], 8 bits, 0 = not set (R32). -/
  itemCount : Byte := 0
deriving DecidableEq, Repr

/-- The complete architectural state of one DBFB instance (R20). -/
structure Block where
  /-- RXBUF[0..12] (R21). -/
  rxbuf : Vector Byte 13
  /-- PSTATE (R22). -/
  pstate : PState
  /-- RXIDX, 4 bits (R23). -/
  rxidx : BitVec 4
  /-- FAULT (R26). -/
  fault : Bool
  /-- FAULTCODE, 4 bits (R26). -/
  faultcode : BitVec 4
  /-- FAULTINFO, 16 bits (R26). -/
  faultinfo : BitVec 16
  /-- The descriptor table, row c = 0..255 (R27). -/
  descs : Vector Desc 256
deriving DecidableEq, Repr

/-- The STATUS values (R95). -/
inductive Status where
  | ok
  | faulted
  | illegalOp
  | notPresent
  | notRequestable
  | badOperand
  | window
deriving DecidableEq, Repr

/-- The 4-bit STATUS number (R95). -/
def Status.code : Status → BitVec 4
  | .ok => 0
  | .faulted => 1
  | .illegalOp => 2
  | .notPresent => 3
  | .notRequestable => 4
  | .badOperand => 5
  | .window => 6

/-- The reject reasons RJ_BLOCKED, RJ_EXCESS, RJ_SEQUENCE (R238). -/
inductive RejectReason where
  | blocked
  | excess
  | sequence
deriving DecidableEq, Repr

/-- The number of a reject reason (R238). -/
def RejectReason.code : RejectReason → Nat
  | .blocked => 1
  | .excess => 2
  | .sequence => 3

/-- An event of EVQ with its fields (R235). -/
inductive Event where
  | transmit (f : Frame)
  | receive (f : Frame)
  | error (f : Frame)
  | unrouted (c : CmdCode) (f : Frame)
  | reject (c : CmdCode) (reason : RejectReason) (n : Count)
  | accept (c : CmdCode) (k : Nat) (p : Payload) (last : Bool)
  | decodeFail (c : CmdCode) (k : Nat)
  | complete (c : CmdCode) (t : Time)
deriving DecidableEq, Repr

/-- The tag number of an event (R235). -/
def Event.tag : Event → Nat
  | .transmit _ => 1
  | .receive _ => 2
  | .error _ => 3
  | .unrouted _ _ => 4
  | .reject _ _ _ => 5
  | .accept _ _ _ _ => 6
  | .decodeFail _ _ => 7
  | .complete _ _ => 8

/-- An action of an agent on the block (log entry 7): an instruction word, bytes the link appends to RXQ between two
operations (R70), a reset pulse (R260). -/
inductive Input where
  | instr (e : Encoded)
  | linkRx (bytes : List Byte)
  | reset
deriving DecidableEq, Repr

/-- What the link and the input pins do between two polls of one DRAIN (R147; log entry 8). -/
structure LinkTick where
  /-- Bytes appended to RXQ. -/
  rx : List Byte := []
  /-- A new level of NOW, if it changes. -/
  now : Option Time := none
  /-- A new level of DECODE_OK, if it changes. -/
  decodeOk : Option Bool := none
deriving DecidableEq, Repr

/-- The machine's state: the block, its static configuration, the port's last answer, the environment, and the
model's own fields (INVENTORY.md, State). -/
structure State where
  /-- The block's registers (R20). -/
  block : Block
  /-- The static configuration; no step writes it (R33; log entry 1). -/
  cfg : Configuration
  /-- STATUS of the last answered operation (R90, R95; log entry 3). -/
  status : Status
  /-- RES of the last answered operation (R90; log entry 3). -/
  res : ResWord
  /-- EVQ, oldest event first (R236). -/
  evq : List Event
  /-- RXQ, oldest byte first (R70). -/
  rxq : List Byte
  /-- The frames handed to `write`, oldest first (R71; log entry 13). -/
  wire : List Frame
  /-- The link's answers to the next `write` calls (R71; log entry 9). -/
  txok : List Bool
  /-- The link's and the pins' actions between two polls of one DRAIN (R147; log entry 8). -/
  script : List LinkTick
  /-- The NOW pin (R90, R245; log entry 10). -/
  now : Time
  /-- The DECODE_OK pin (R90, R176; log entry 10). -/
  decodeOk : Bool
  /-- The agents' actions still to come, first first (log entry 7). -/
  inbox : List Input
  /-- How many free values have been drawn (log entry 16). -/
  draws : Nat
deriving DecidableEq, Repr

/-- Why the machine stops. -/
inductive Fault where
  /-- Raised by the byte step of the receiver (RXBYTE, RXPOLL, DRAIN, TXFRAME and the FRAME13 rows) when RXIDX is 13, 14
  or 15 in HDR or CNT: a value that no rule writes and that U20 treats as `stuck`. Safe: no state that a run from reset
  reaches has it (log entry 12). -/
  | parserIndexStuck
deriving DecidableEq, Repr

/-- Why the model has no answer. -/
inductive Refusal where
  /-- Raised only by an arm of `exec` whose instruction has no meaning. Safe: nothing is claimed of it. No arm raises
  it. -/
  | notModelled (mnemonic : String)
deriving DecidableEq, Repr

/-- The outcome of an instruction. -/
abbrev Outcome := Host.Outcome State Fault Refusal

/-- The registers after reset (R42), RXBUF given by the argument because reset leaves it unspecified (R41). -/
def Block.reset (rxbuf : Vector Byte 13) : Block where
  rxbuf := rxbuf
  pstate := .wfs
  rxidx := 0
  fault := false
  faultcode := 0
  faultinfo := 0
  descs := Vector.replicate 256 {}

/-- The machine right after reset with a given configuration (R42, R260): the registers at their reset values, EVQ empty.
RXBUF 0 (log entry 2), the answer ST_OK and 0 (log entry 3), an empty environment (log entries 7, 8, 9, 13), NOW 0 and
DECODE_OK 1 (log entry 10) are the model's choices. -/
def State.resetWith (cfg : Configuration) : State where
  block := Block.reset (Vector.replicate 13 0)
  cfg := cfg
  status := .ok
  res := 0
  evq := []
  rxq := []
  wire := []
  txok := []
  script := []
  now := 0
  decodeOk := true
  inbox := []
  draws := 0

/-- The machine right after reset; no descriptor is configured (R8 gives DESC_CFG no default; log entry 1). -/
def State.reset : State := State.resetWith Configuration.unconfigured

end Sys2Proof.Machine
end

