-- ==== Sys2Proof/Machine/Flags.lean ====
section
/-!
DEFINITION. The computed flags and the tests of a descriptor: Expected (spec/10_state.md R36), Requestable (R37), the
sequence test and the frame index (spec/42_sequencer.md R175), the reject reason (spec/60_exceptions.md R238), the header's
address test (spec/41_parser.md R142).
-/

namespace Sys2Proof.Machine

/-- `Expected(c)` of a descriptor with its item count (R36). -/
def expected (fam : Family) (itemCount : Byte) : Nat :=
  match fam with
  | .single => 1
  | .seq n => n.val.toNat
  | .array per => ceilDiv itemCount.toNat per.val.toNat

/-- `Requestable(c)`: false for ARRAY until the item count is set (R37). -/
def requestable (fam : Family) (itemCount : Byte) : Bool :=
  match fam with
  | .single => true
  | .seq _ => true
  | .array _ => itemCount != 0

/-- `SeqOk(c, F, n, N)` on the sequence byte `b`: SINGLE a wildcard, SEQ strict, ARRAY a 1-based index that must also
equal the counter with ARRAY_ORDER_STRICT (R175). -/
def seqOk (cfg : Configuration) (fam : Family) (b n N : Nat) : Bool :=
  match fam with
  | .single => true
  | .seq _ => b == n
  | .array _ => decide (1 ≤ b) && decide (b ≤ N) && (b == n || !cfg.arrayOrderStrict)

/-- `FrameIndex(c, F, n)`: the counter, for ARRAY the literal index (R175). -/
def frameIndex (fam : Family) (b n : Nat) : Nat :=
  match fam with
  | .single => n
  | .seq _ => n
  | .array _ => b

/-- The first of the tests BLOCKED, EXCESS, SEQUENCE that fails; `none` where the frame is accepted (R174, R238). -/
def rejectReason (cfg : Configuration) (fam : Family) (blocked : Bool) (b n N : Nat) : Option RejectReason :=
  if blocked then some .blocked
  else if n > N then some .excess
  else if seqOk cfg fam b n N then none
  else some .sequence

/-- The header's address test: RX_ADDR_MIN <= a <= RX_ADDR_MAX (R142). -/
def addrInRange (cfg : Configuration) (a : Byte) : Bool :=
  decide (cfg.rxAddrMin.toNat ≤ a.toNat) && decide (a.toNat ≤ cfg.rxAddrMax.toNat)

end Sys2Proof.Machine
end

