-- ==== Sys2Proof/Machine/Ops.lean ====
section
/-!
DEFINITION. The named operations over the state: descriptor rows and parser registers, events, the transport's two
streams, the input pins, the port's answer, entering the WindowFault (spec/60_exceptions.md R231) and the return from it, reset
(spec/70_reset_and_hazards.md R260).
-/

namespace Sys2Proof.Machine

/-! ### Registers -/

/-- Row `c` of the descriptor table (R27). -/
def Block.row (b : Block) (c : CmdCode) : Desc := b.descs[c.toNat]'c.isLt

/-- The descriptor table with row `c` written (R27). -/
def Block.setRow (b : Block) (c : CmdCode) (d : Desc) : Block := { b with descs := b.descs.set c.toNat d c.isLt }

/-- Row `c` of the descriptor table (R27). -/
def State.row (s : State) (c : CmdCode) : Desc := s.block.row c

/-- Row `c` written, nothing else (R27). -/
def State.setRow (s : State) (c : CmdCode) (d : Desc) : State := { s with block := s.block.setRow c d }

/-- `pc <- (p, i)` (R24, R10). -/
def State.setPc (s : State) (p : PState) (i : BitVec 4) : State :=
  { s with block := { s.block with pstate := p, rxidx := i } }

/-- `MemWrite(RXBUF, i, 1, b)` for `i` in 0..12 (R10, R69). -/
def State.storeByte (s : State) (i : Nat) (b : Byte) : State :=
  { s with block := { s.block with rxbuf := s.block.rxbuf.setIfInBounds i b } }

/-- DESC_CFG[c], `none` where PRESENT = 0 (R33). -/
def State.desc (s : State) (c : CmdCode) : Option Family := s.cfg.descs[c.toNat]'c.isLt

/-! ### Events, streams and pins -/

/-- `emit E`: appends an event to EVQ (R10, R236). -/
def State.emit (s : State) (e : Event) : State := { s with evq := s.evq ++ [e] }

/-- `poll()`: the oldest byte of RXQ and the state without it; `none` when RXQ is empty (R70). -/
def State.poll (s : State) : Option (Byte × State) :=
  match s.rxq with
  | [] => none
  | b :: q => some (b, { s with rxq := q })

/-- The link appends bytes to RXQ (R70). -/
def State.linkAppend (s : State) (bytes : List Byte) : State := { s with rxq := s.rxq ++ bytes }

/-- What the link answers to the next `write`: the head of `txok`, a free value when it is empty (R71, U11;
log entry 9). -/
def State.writeAnswer (s : State) : Bool :=
  match s.txok with
  | [] => Config.freeWriteOk s.draws
  | b :: _ => b

/-- `write(F)`: the 13 bytes handed to the link in one call, its answer used up (R71). -/
def State.write (s : State) (f : Frame) : State :=
  { s with wire := s.wire ++ [f], txok := s.txok.tail, draws := s.draws + 1 }

/-- The NOW pin driven (R90, R245). -/
def State.setNow (s : State) (now : Time) : State := { s with now := now }

/-- The NOW and DECODE_OK pins driven (R90, R176, R245). -/
def State.setPins (s : State) (now : Time) (ok : Bool) : State := { s with now := now, decodeOk := ok }

/-- The link's and the pins' turn between two polls of one DRAIN (R147; log entry 8). -/
def State.linkTurn (s : State) : State :=
  match s.script with
  | [] => s
  | t :: rest =>
    { s with
      script := rest
      rxq := s.rxq ++ t.rx
      now := t.now.getD s.now
      decodeOk := t.decodeOk.getD s.decodeOk }

/-- The bytes a DRAIN can meet: those in RXQ and those the script still holds. -/
def State.pending (s : State) : Nat := s.rxq.length + (s.script.map fun t => t.rx.length).sum

/-! ### The port's answer -/

/-- `return v`: STATUS = ST_OK, the low `k` bits of RES those of `v`, the others free (R90, R95; log entry 4). -/
def State.answer (s : State) (k : Nat) (v : ResWord) : State :=
  { s with status := .ok, res := overlay k v (Config.freeRes s.draws), draws := s.draws + 1 }

/-- An operation that ends with STATUS = ST_OK and to which the spec gives no result: RES is free (log entry 4). -/
def State.done (s : State) : State :=
  { s with status := .ok, res := Config.freeRes s.draws, draws := s.draws + 1 }

/-- `refuse(status)`: no state change and no event; STATUS returned, RES free (R10, R95, U14). -/
def State.refuse (s : State) (st : Status) : State :=
  { s with status := st, res := Config.freeRes s.draws, draws := s.draws + 1 }

/-- Every operation first tests FAULT: with FAULT = 1 it is refused with ST_FAULTED (R11, R232, R239). -/
def guarded (s : State) (run : Outcome) : Outcome :=
  if s.block.fault then .next (s.refuse .faulted) else run

/-- An operation that names command `c` first tests PRESENT: without a descriptor it is refused with
ST_NOT_PRESENT (R170). -/
def withDesc (s : State) (c : CmdCode) (run : Family → Outcome) : Outcome :=
  match s.desc c with
  | none => .next (s.refuse .notPresent)
  | some fam => run fam

/-! ### The fatal fault: entry and return -/

/-- `raise WindowFault`: FAULT, FAULTCODE and FAULTINFO written, STATUS = ST_WINDOW, RES not meaningful, no event, no
other state (R231). -/
def State.windowFault (s : State) (code : BitVec 4) (info : BitVec 16) : State :=
  { s with
    block := { s.block with fault := true, faultcode := code, faultinfo := info }
    status := .window
    res := Config.freeRes s.draws
    draws := s.draws + 1 }

/-- FAULTCODE 1, WF_BYTES (R230). -/
def wfBytes : BitVec 4 := 1

/-- FAULTCODE 2, WF_BITPOS (R230). -/
def wfBitpos : BitVec 4 := 2

/-- FAULTCODE 3, WF_LINEAR (R230). -/
def wfLinear : BitVec 4 := 3

/-- An access of `n` window bytes at offset `off`: the bytes, or WindowFault with FAULTINFO = off ++ n (R63, R230). -/
def withBytes (s : State) (f : Frame) (off : Byte) (n : Nat) (run : List Byte → Outcome) : Outcome :=
  match windowBytes s.cfg f off.toNat n with
  | none => .next (s.windowFault wfBytes (off ++ BitVec.ofNat 8 n))
  | some bs => run bs

/-- `MemRead(F, off, n)` inside an operation: the big-endian integer, or WindowFault (R63). -/
def withRead (s : State) (f : Frame) (off : Byte) (n : Nat) (run : Nat → Outcome) : Outcome :=
  withBytes s f off n fun bs => run (bigEndian bs)

/-- The reset pulse, the only return from the fault (R232, R260): the registers at their reset values, RXBUF free (R41),
EVQ empty; the configuration and RXQ are not touched (R261). -/
def State.applyReset (s : State) : State :=
  { s with block := Block.reset (Config.freeRxbuf s.draws), evq := [], draws := s.draws + 1 }

end Sys2Proof.Machine
end

