-- ==== Sys2Proof/Machine/Codec.lean ====
section
/-!
DEFINITION. The CODEC operations (spec/40_codec.md): CHECKSUM, ENCODE, DECODE, VALIDATE and the payload accessors. They
read no register but FAULT and write none but FAULT, FAULTCODE, FAULTINFO on a WindowFault (R110).
-/

namespace Sys2Proof.Machine

/-- CHECKSUM F (R111). -/
def execChecksum (f : Frame) (s : State) : Outcome :=
  guarded s (.next (s.answer 104 (natRes (checksum f).toNat)))

/-- ENCODE cmd, role, P (R112). It does not look at the descriptor table. -/
def execEncode (c : CmdCode) (r : Role) (p : Payload) (s : State) : Outcome :=
  guarded s (.next (s.answer 104 (frameRes (encodeFrame s.cfg c r p))))

/-- DECODE F (R113): the three variable fields in the low 80 bits of RES; nothing is checked. -/
def execDecode (f : Frame) (s : State) : Outcome :=
  guarded s (.next (s.answer 80 (decodedRes f)))

/-- VALIDATE F, role (R114). -/
def execValidate (f : Frame) (r : Role) (s : State) : Outcome :=
  guarded s (.next (s.answer 1 (boolRes (validate s.cfg f r))))

/-- GETU8 F, off (R115). -/
def execGetU8 (f : Frame) (off : Byte) (s : State) : Outcome :=
  guarded s (withRead s f off 1 fun v => .next (s.answer 104 (natRes v)))

/-- GETU16 F, off (R116). -/
def execGetU16 (f : Frame) (off : Byte) (s : State) : Outcome :=
  guarded s (withRead s f off 2 fun v => .next (s.answer 104 (natRes v)))

/-- GETU32 F, off (R117). -/
def execGetU32 (f : Frame) (off : Byte) (s : State) : Outcome :=
  guarded s (withRead s f off 4 fun v => .next (s.answer 104 (natRes v)))

/-- GETBIT F, off, bitpos (R118): the offset is tested before the bit position (R239). -/
def execGetBit (f : Frame) (off bitpos : Byte) (s : State) : Outcome :=
  guarded s
    (withRead s f off 1 fun v =>
      if bitpos.toNat > 7 then .next (s.windowFault wfBitpos (off ++ bitpos))
      else .next (s.answer 1 (boolRes (byteBit s.cfg (BitVec.ofNat 8 v) bitpos.toNat))))

/-- GETBITL F, idx (R119): bit `idx mod 8` of payload byte `idx div 8` (R62). -/
def execGetBitL (f : Frame) (idx : Byte) (s : State) : Outcome :=
  guarded s
    (if idx.toNat > 63 then .next (s.windowFault wfLinear (0#8 ++ idx))
     else
      withRead s f (BitVec.ofNat 8 (idx.toNat / 8)) 1 fun v =>
        .next (s.answer 1 (boolRes (byteBit s.cfg (BitVec.ofNat 8 v) (idx.toNat % 8)))))

end Sys2Proof.Machine
end

