-- ==== Sys2Proof/Machine/Sequencer.lean ====
section
/-!
DEFINITION. The SEQUENCER operations (spec/42_sequencer.md): PREPARE, ROUTE, PROCESS, SETVALID, the queries and SETCOUNT.
-/

namespace Sys2Proof.Machine

/-- SETVALID on row `c`: VALID set, VTIME stamped with NOW, RXCNT zeroed; BLOCKED not changed (R180). -/
def State.setValidRow (s : State) (c : CmdCode) : State :=
  s.setRow c { s.row c with valid := true, vtime := s.now, rxcnt := 0 }

/-- What PROCESS yields: the state, its result, and whether this call performed SETVALID (R174). -/
structure Processed where
  state : State
  accepted : Bool
  completed : Bool

/-- An accepted frame: `Accept`, then the decode unit's verdict, then completion on the last frame (R174, R176, R178,
R179). `s` holds the incremented counter `n`. -/
def acceptFrame (s : State) (f : Frame) (k n N : Nat) : Processed :=
  let c := cmdOf f
  let s1 := s.emit (.accept c k (payloadOf f) (n == N))
  if s.decodeOk then
    if n = N then ⟨s1.setValidRow c, true, true⟩ else ⟨s1, true, false⟩
  else
    ⟨(s1.setRow c { s.row c with valid := false, blocked := true }).emit (.decodeFail c k), false, false⟩

/-- `PROCESS(F)` on a present descriptor: the counter is incremented on every call, before any test; a rejected frame
changes nothing else (R174, R177). -/
def processFrame (s : State) (fam : Family) (f : Frame) : Processed :=
  let c := cmdOf f
  let d := s.row c
  let n := sat16 (d.rxcnt.toNat + 1)
  let b := (seqByte s.cfg f).toNat
  let N := expected fam d.itemCount
  let s1 := s.setRow c { d with rxcnt := n }
  match rejectReason s.cfg fam d.blocked b n.toNat N with
  | some why => ⟨s1.emit (.reject c why n), false, false⟩
  | none => acceptFrame s1 f (frameIndex fam b n.toNat) n.toNat N

/-- `ROUTE(F)`: `Unrouted` where no descriptor exists; otherwise PROCESS, and `Complete` in the step whose PROCESS
performed SETVALID (R171, R173, R237). -/
def State.routeFrame (s : State) (f : Frame) : State :=
  match s.desc (cmdOf f) with
  | none => s.emit (.unrouted (cmdOf f) f)
  | some fam =>
    let p := processFrame s fam f
    if p.completed then p.state.emit (.complete (cmdOf f) (p.state.row (cmdOf f)).vtime) else p.state

/-- PREPARE c, P (R172): the request frame on RES, RXCNT and BLOCKED of row `c` cleared; VALID and VTIME stay. -/
def execPrepare (c : CmdCode) (p : Payload) (s : State) : Outcome :=
  guarded s
    (withDesc s c fun _ =>
      .next ((s.setRow c { s.row c with rxcnt := 0, blocked := false }).answer 104
        (frameRes (encodeFrame s.cfg c .host2dev p))))

/-- ROUTE F with the inputs NOW and DECODE_OK (R173). -/
def execRoute (f : Frame) (now : Time) (ok : Bool) (s : State) : Outcome :=
  guarded s (.next ((s.setPins now ok).routeFrame f).done)

/-- SETVALID c with the input NOW (R180). -/
def execSetValid (c : CmdCode) (now : Time) (s : State) : Outcome :=
  guarded s (withDesc s c fun _ => .next ((s.setNow now).setValidRow c).done)

/-- ISREQ c (R181). -/
def execIsReq (c : CmdCode) (s : State) : Outcome :=
  guarded s (withDesc s c fun fam => .next (s.answer 1 (boolRes (requestable fam (s.row c).itemCount))))

/-- ISVALID c (R182). -/
def execIsValid (c : CmdCode) (s : State) : Outcome :=
  guarded s (withDesc s c fun _ => .next (s.answer 1 (boolRes (s.row c).valid)))

/-- LASTVALID c (R184). -/
def execLastValid (c : CmdCode) (s : State) : Outcome :=
  guarded s (withDesc s c fun _ => .next (s.answer 104 (natRes (s.row c).vtime.toNat)))

/-- The write of ITEMCOUNT[c]: only the ARRAY family has one, any other is refused with ST_BAD_OPERAND (R183). -/
def setItemCount (s : State) (c : CmdCode) (count : Byte) : Family → Outcome
  | .single => .next (s.refuse .badOperand)
  | .seq _ => .next (s.refuse .badOperand)
  | .array _ => .next (s.setRow c { s.row c with itemCount := count }).done

/-- SETCOUNT c, count (R183). -/
def execSetCount (c : CmdCode) (count : Byte) (s : State) : Outcome :=
  guarded s (withDesc s c fun fam => setItemCount s c count fam)

/-- PROCESS F with the inputs NOW and DECODE_OK (R174): `accepted` on RES. -/
def execProcess (f : Frame) (now : Time) (ok : Bool) (s : State) : Outcome :=
  guarded s
    (withDesc s (cmdOf f) fun fam =>
      let p := processFrame (s.setPins now ok) fam f
      .next (p.state.answer 1 (boolRes p.accepted)))

end Sys2Proof.Machine
end

