-- ==== Sys2Proof/Machine/Parser.lean ====
section
/-!
DEFINITION. The PARSER operations (spec/41_parser.md): the byte step RXBYTE of the framing state machine, RXPOLL, DRAIN and
the transmit path TXFRAME.
-/

namespace Sys2Proof.Machine

/-- RXBYTE in WaitingForStart (R141). -/
def rxByteWfs (b : Byte) (s : State) : State :=
  if b = s.cfg.startByte then (s.storeByte 0 b).setPc .hdr 1 else s

/-- RXBYTE in ProcessingHeader (R142): store, then the address test at HDR_CHECK_AT, then the end of the header. An
abort emits nothing. -/
def rxByteHdr (b : Byte) (s : State) : State :=
  let s1 := s.storeByte s.block.rxidx.toNat b
  let i := s.block.rxidx.toNat + 1
  if i = s.cfg.hdrCheck.index ∧ addrInRange s.cfg s1.block.rxbuf[1] = false then s1.setPc .wfs 0
  else if i = s.cfg.headerSize.val then s1.setPc .cnt 4
  else s1.setPc .hdr (BitVec.ofNat 4 i)

/-- The end of a 13-byte window: back to WaitingForStart unconditionally; `Receive` and ROUTE if the frame is valid for
DEV2HOST, `Error` if not (R143). -/
def frameComplete (s : State) : State :=
  let f : Frame := s.block.rxbuf
  let s1 := s.setPc .wfs 0
  if validate s.cfg f .dev2host then (s1.emit (.receive f)).routeFrame f else s1.emit (.error f)

/-- RXBYTE in ProcessingContent (R143). -/
def rxByteCnt (b : Byte) (s : State) : State :=
  let s1 := s.storeByte s.block.rxidx.toNat b
  let i := s.block.rxidx.toNat + 1
  if i < s.cfg.frameSize.val then s1.setPc .cnt (BitVec.ofNat 4 i) else frameComplete s1

/-- The byte step, dispatched on PSTATE (R140). RXIDX 13 to 15 in HDR or CNT, which no rule writes, is stuck (U20;
log entry 12). -/
def rxByte (b : Byte) (s : State) : Except Fault State :=
  match s.block.pstate with
  | .wfs => .ok (rxByteWfs b s)
  | .hdr => if s.block.rxidx.toNat < s.cfg.frameSize.val then .ok (rxByteHdr b s) else .error .parserIndexStuck
  | .cnt => if s.block.rxidx.toNat < s.cfg.frameSize.val then .ok (rxByteCnt b s) else .error .parserIndexStuck

/-- RXBYTE on each byte of a list in order (R140, R146). -/
def receiveBytes : List Byte → State → Except Fault State
  | [], s => .ok s
  | b :: bs, s =>
    match rxByte b s with
    | .ok s' => receiveBytes bs s'
    | .error e => .error e

/-- The outcome of receiving, with the answer given to the state it ends in. -/
def answering (r : Except Fault State) (finish : State → State) : Outcome :=
  match r with
  | .ok s => .next (finish s)
  | .error e => .fault e

/-- The loop of DRAIN: poll until the first empty poll, RXBYTE on each byte, the link's turn after it; `n` counts the
bytes (R147). The first argument bounds the recursion. -/
def drainLoop : Nat → Nat → State → Except Fault (Nat × State)
  | 0, n, s => .ok (n, s)
  | fuel + 1, n, s =>
    match s.poll with
    | none => .ok (n, s)
    | some (b, s1) =>
      match rxByte b s1 with
      | .ok s2 => drainLoop fuel (n + 1) s2.linkTurn
      | .error e => .error e

/-- `DRAIN()`: the number of bytes processed and the state after (R147). One turn more than the bytes it can meet, so that
it ends in an empty poll. -/
def drainBytes (s : State) : Except Fault (Nat × State) := drainLoop (s.pending + 1) 0 s

/-- RXBYTE b with the inputs NOW and DECODE_OK (R140). -/
def execRxByte (b : Byte) (now : Time) (ok : Bool) (s : State) : Outcome :=
  guarded s (answering (rxByte b (s.setPins now ok)) State.done)

/-- RXPOLL (R145): false on an empty poll, which changes nothing. -/
def execRxPoll (now : Time) (ok : Bool) (s : State) : Outcome :=
  guarded s
    (match (s.setPins now ok).poll with
     | none => .next ((s.setPins now ok).answer 1 (boolRes false))
     | some (b, s1) => answering (rxByte b s1) fun s2 => s2.answer 1 (boolRes true))

/-- DRAIN (R147). -/
def execDrain (now : Time) (ok : Bool) (s : State) : Outcome :=
  guarded s
    (match drainBytes (s.setPins now ok) with
     | .ok (n, s1) => .next (s1.answer 104 (natRes n))
     | .error e => .fault e)

/-- TXFRAME F (R148): the event, the write, then the turnaround read; the link's answer is the result. -/
def execTxFrame (f : Frame) (now : Time) (ok : Bool) (s : State) : Outcome :=
  guarded s
    (let s1 := (s.setPins now ok).emit (.transmit f)
     match drainBytes (s1.write f) with
     | .ok (_, s2) => .next (s2.answer 1 (boolRes s1.writeAnswer))
     | .error e => .fault e)

end Sys2Proof.Machine
end

