-- ==== Sys2Proof/Machine/Frames.lean ====
section
/-!
DEFINITION. The FRAME13 rows: a frame that carries a listed command code on the receive path. Its 13 bytes are taken by
RXBYTE in wire order (spec/41_parser.md R140 to R143, spec/30_encoding.md R93); a valid frame is routed by its command code
(spec/42_sequencer.md R173). The block treats every code alike (R89); each row has a definition of its own (log entry 6).
-/

namespace Sys2Proof.Machine

/-- The 13 bytes of a frame on the receive path, with the levels of NOW and DECODE_OK in this step (R140, R93, R245;
log entry 6). -/
def receiveFrame (f : Frame) (now : Time) (ok : Bool) (s : State) : Outcome :=
  guarded s (answering (receiveBytes f.toList (s.setPins now ok)) State.done)

/-- CMD_RESET: a frame with command code 0x00 is received (R89, R93, R173). -/
def execCmdReset (b : OpenFields) (now : Time) (ok : Bool) (s : State) : Outcome :=
  receiveFrame (mkFrame 0x00 b) now ok s

/-- CMD_INFO_50: a frame with command code 0x50 is received (R89, R93, R173). -/
def execCmdInfo50 (b : OpenFields) (now : Time) (ok : Bool) (s : State) : Outcome :=
  receiveFrame (mkFrame 0x50 b) now ok s

/-- CMD_INFO_51: a frame with command code 0x51 is received (R89, R93, R173). -/
def execCmdInfo51 (b : OpenFields) (now : Time) (ok : Bool) (s : State) : Outcome :=
  receiveFrame (mkFrame 0x51 b) now ok s

/-- CMD_INFO_52: a frame with command code 0x52 is received (R89, R93, R173). -/
def execCmdInfo52 (b : OpenFields) (now : Time) (ok : Bool) (s : State) : Outcome :=
  receiveFrame (mkFrame 0x52 b) now ok s

/-- CMD_INFO_53: a frame with command code 0x53 is received (R89, R93, R173). -/
def execCmdInfo53 (b : OpenFields) (now : Time) (ok : Bool) (s : State) : Outcome :=
  receiveFrame (mkFrame 0x53 b) now ok s

/-- CMD_INFO_54: a frame with command code 0x54 is received (R89, R93, R173). -/
def execCmdInfo54 (b : OpenFields) (now : Time) (ok : Bool) (s : State) : Outcome :=
  receiveFrame (mkFrame 0x54 b) now ok s

/-- CMD_INFO_55: a frame with command code 0x55 is received (R89, R93, R173). -/
def execCmdInfo55 (b : OpenFields) (now : Time) (ok : Bool) (s : State) : Outcome :=
  receiveFrame (mkFrame 0x55 b) now ok s

/-- CMD_INFO_56: a frame with command code 0x56 is received (R89, R93, R173). -/
def execCmdInfo56 (b : OpenFields) (now : Time) (ok : Bool) (s : State) : Outcome :=
  receiveFrame (mkFrame 0x56 b) now ok s

/-- CMD_INFO_57: a frame with command code 0x57 is received (R89, R93, R173). -/
def execCmdInfo57 (b : OpenFields) (now : Time) (ok : Bool) (s : State) : Outcome :=
  receiveFrame (mkFrame 0x57 b) now ok s

/-- CMD_INFO_58: a frame with command code 0x58 is received (R89, R93, R173). -/
def execCmdInfo58 (b : OpenFields) (now : Time) (ok : Bool) (s : State) : Outcome :=
  receiveFrame (mkFrame 0x58 b) now ok s

/-- CMD_INFO_59: a frame with command code 0x59 is received (R89, R93, R173). -/
def execCmdInfo59 (b : OpenFields) (now : Time) (ok : Bool) (s : State) : Outcome :=
  receiveFrame (mkFrame 0x59 b) now ok s

/-- CMD_INFO_5A: a frame with command code 0x5A is received (R89, R93, R173). -/
def execCmdInfo5A (b : OpenFields) (now : Time) (ok : Bool) (s : State) : Outcome :=
  receiveFrame (mkFrame 0x5A b) now ok s

/-- CMD_INFO_5B: a frame with command code 0x5B is received (R89, R93, R173). -/
def execCmdInfo5B (b : OpenFields) (now : Time) (ok : Bool) (s : State) : Outcome :=
  receiveFrame (mkFrame 0x5B b) now ok s

/-- CMD_INFO_5C: a frame with command code 0x5C is received (R89, R93, R173). -/
def execCmdInfo5C (b : OpenFields) (now : Time) (ok : Bool) (s : State) : Outcome :=
  receiveFrame (mkFrame 0x5C b) now ok s

/-- CMD_INFO_5D: a frame with command code 0x5D is received (R89, R93, R173). -/
def execCmdInfo5D (b : OpenFields) (now : Time) (ok : Bool) (s : State) : Outcome :=
  receiveFrame (mkFrame 0x5D b) now ok s

/-- CMD_INFO_5E: a frame with command code 0x5E is received (R89, R93, R173). -/
def execCmdInfo5E (b : OpenFields) (now : Time) (ok : Bool) (s : State) : Outcome :=
  receiveFrame (mkFrame 0x5E b) now ok s

/-- CMD_INFO_5F: a frame with command code 0x5F is received (R89, R93, R173). -/
def execCmdInfo5F (b : OpenFields) (now : Time) (ok : Bool) (s : State) : Outcome :=
  receiveFrame (mkFrame 0x5F b) now ok s

/-- CMD_INFO_60: a frame with command code 0x60 is received (R89, R93, R173). -/
def execCmdInfo60 (b : OpenFields) (now : Time) (ok : Bool) (s : State) : Outcome :=
  receiveFrame (mkFrame 0x60 b) now ok s

/-- CMD_INFO_61: a frame with command code 0x61 is received (R89, R93, R173). -/
def execCmdInfo61 (b : OpenFields) (now : Time) (ok : Bool) (s : State) : Outcome :=
  receiveFrame (mkFrame 0x61 b) now ok s

/-- CMD_INFO_62: a frame with command code 0x62 is received (R89, R93, R173). -/
def execCmdInfo62 (b : OpenFields) (now : Time) (ok : Bool) (s : State) : Outcome :=
  receiveFrame (mkFrame 0x62 b) now ok s

/-- CMD_INFO_63: a frame with command code 0x63 is received (R89, R93, R173). -/
def execCmdInfo63 (b : OpenFields) (now : Time) (ok : Bool) (s : State) : Outcome :=
  receiveFrame (mkFrame 0x63 b) now ok s

/-- CMD_STATUS_90: a frame with command code 0x90 is received (R89, R93, R173). -/
def execCmdStatus90 (b : OpenFields) (now : Time) (ok : Bool) (s : State) : Outcome :=
  receiveFrame (mkFrame 0x90 b) now ok s

/-- CMD_STATUS_91: a frame with command code 0x91 is received (R89, R93, R173). -/
def execCmdStatus91 (b : OpenFields) (now : Time) (ok : Bool) (s : State) : Outcome :=
  receiveFrame (mkFrame 0x91 b) now ok s

/-- CMD_STATUS_92: a frame with command code 0x92 is received (R89, R93, R173). -/
def execCmdStatus92 (b : OpenFields) (now : Time) (ok : Bool) (s : State) : Outcome :=
  receiveFrame (mkFrame 0x92 b) now ok s

/-- CMD_STATUS_93: a frame with command code 0x93 is received (R89, R93, R173). -/
def execCmdStatus93 (b : OpenFields) (now : Time) (ok : Bool) (s : State) : Outcome :=
  receiveFrame (mkFrame 0x93 b) now ok s

/-- CMD_STATUS_94: a frame with command code 0x94 is received (R89, R93, R173). -/
def execCmdStatus94 (b : OpenFields) (now : Time) (ok : Bool) (s : State) : Outcome :=
  receiveFrame (mkFrame 0x94 b) now ok s

/-- CMD_STATUS_95: a frame with command code 0x95 is received (R89, R93, R173). -/
def execCmdStatus95 (b : OpenFields) (now : Time) (ok : Bool) (s : State) : Outcome :=
  receiveFrame (mkFrame 0x95 b) now ok s

/-- CMD_STATUS_96: a frame with command code 0x96 is received (R89, R93, R173). -/
def execCmdStatus96 (b : OpenFields) (now : Time) (ok : Bool) (s : State) : Outcome :=
  receiveFrame (mkFrame 0x96 b) now ok s

/-- CMD_STATUS_97: a frame with command code 0x97 is received (R89, R93, R173). -/
def execCmdStatus97 (b : OpenFields) (now : Time) (ok : Bool) (s : State) : Outcome :=
  receiveFrame (mkFrame 0x97 b) now ok s

/-- CMD_STATUS_98: a frame with command code 0x98 is received (R89, R93, R173). -/
def execCmdStatus98 (b : OpenFields) (now : Time) (ok : Bool) (s : State) : Outcome :=
  receiveFrame (mkFrame 0x98 b) now ok s

/-- CMD_DISCHARGE_MOSFET: a frame with command code 0xD9 is received (R89, R93, R173). -/
def execCmdDischargeMosfet (b : OpenFields) (now : Time) (ok : Bool) (s : State) : Outcome :=
  receiveFrame (mkFrame 0xD9 b) now ok s

/-- CMD_CHARGE_MOSFET: a frame with command code 0xDA is received (R89, R93, R173). -/
def execCmdChargeMosfet (b : OpenFields) (now : Time) (ok : Bool) (s : State) : Outcome :=
  receiveFrame (mkFrame 0xDA b) now ok s

end Sys2Proof.Machine
end

