-- ==== Sys2Proof/Machine/Valdec.lean ====
section
/-!
DEFINITION. The VALDEC operations (spec/43_value_decoders.md): exact rationals (R210) over the accessors, WindowFault
from the accessor, and no other state.
-/

namespace Sys2Proof.Machine

/-- The divisor of tenths (R211, R213). -/
def tenths : Nat := 10

/-- The divisor of thousandths (R212). -/
def thousandths : Nat := 1000

/-- The zero offset of the current (R213). -/
def currentZero : Int := 30000

/-- The bias of the temperature (R214). -/
def tempBias : Int := 40

/-- Seconds in a minute (R215). -/
def secondsPerMinute : Nat := 60

/-- An operation that returns the rational `num / den` (R210). -/
def answerRational (s : State) (num : Int) (den : Nat) : Outcome := .next (s.answer 65 (rationalRes num den))

/-- A scaled unsigned value of `n` bytes over a divisor that the caller supplies: a zero divisor is refused with
ST_BAD_OPERAND before the read (R218, R219). -/
def scaled (s : State) (f : Frame) (off : Byte) (n : Nat) (divisor : BitVec 32) : Outcome :=
  if divisor = 0 then .next (s.refuse .badOperand)
  else withRead s f off n fun v => answerRational s v divisor.toNat

/-- DEC_DECI F, off (R211). -/
def execDecDeci (f : Frame) (off : Byte) (s : State) : Outcome :=
  guarded s (withRead s f off 2 fun v => answerRational s v tenths)

/-- DEC_MILLI F, off (R212). -/
def execDecMilli (f : Frame) (off : Byte) (s : State) : Outcome :=
  guarded s (withRead s f off 2 fun v => answerRational s v thousandths)

/-- DEC_CURRENT F, off (R213): the subtraction does not wrap. -/
def execDecCurrent (f : Frame) (off : Byte) (s : State) : Outcome :=
  guarded s (withRead s f off 2 fun v => answerRational s ((v : Int) - currentZero) tenths)

/-- DEC_TEMP F, off (R214). -/
def execDecTemp (f : Frame) (off : Byte) (s : State) : Outcome :=
  guarded s (withRead s f off 1 fun v => answerRational s ((v : Int) - tempBias) 1)

/-- DEC_DURATION F, off (R215). -/
def execDecDuration (f : Frame) (off : Byte) (s : State) : Outcome :=
  guarded s (withRead s f off 1 fun v => answerRational s ((v * secondsPerMinute : Nat) : Int) 1)

/-- DEC_BITS F, off (R216): on RES the eight Booleans are the byte itself. -/
def execDecBits (f : Frame) (off : Byte) (s : State) : Outcome :=
  guarded s (withRead s f off 1 fun v => .next (s.answer 8 (natRes v)))

/-- DEC_TRIPLE F, off (R217): three consecutive payload bytes, raw. -/
def execDecTriple (f : Frame) (off : Byte) (s : State) : Outcome :=
  guarded s
    (withBytes s f off 3 fun bs =>
      .next (s.answer 24 (tripleRes (bs.getD 0 0) (bs.getD 1 0) (bs.getD 2 0))))

/-- DEC_SCALED16 F, off, div (R218). -/
def execDecScaled16 (f : Frame) (off : Byte) (divisor : BitVec 32) (s : State) : Outcome :=
  guarded s (scaled s f off 2 divisor)

/-- DEC_SCALED32 F, off, div (R219). -/
def execDecScaled32 (f : Frame) (off : Byte) (divisor : BitVec 32) (s : State) : Outcome :=
  guarded s (scaled s f off 4 divisor)

end Sys2Proof.Machine
end

