-- ==== Sys2Proof/Machine/Dispatch.lean ====
section
/-!
DEFINITION. exec: one arm per instruction, each one call of its meaning.
-/

namespace Sys2Proof.Machine

def exec (i : Instr) (s : State) : Host.Outcome State Fault Refusal :=
  match i with
  | .cmdReset b now ok => Sys2Proof.Machine.execCmdReset b now ok s
  | .cmdInfo50 b now ok => Sys2Proof.Machine.execCmdInfo50 b now ok s
  | .cmdInfo51 b now ok => Sys2Proof.Machine.execCmdInfo51 b now ok s
  | .cmdInfo52 b now ok => Sys2Proof.Machine.execCmdInfo52 b now ok s
  | .cmdInfo53 b now ok => Sys2Proof.Machine.execCmdInfo53 b now ok s
  | .cmdInfo54 b now ok => Sys2Proof.Machine.execCmdInfo54 b now ok s
  | .cmdInfo55 b now ok => Sys2Proof.Machine.execCmdInfo55 b now ok s
  | .cmdInfo56 b now ok => Sys2Proof.Machine.execCmdInfo56 b now ok s
  | .cmdInfo57 b now ok => Sys2Proof.Machine.execCmdInfo57 b now ok s
  | .cmdInfo58 b now ok => Sys2Proof.Machine.execCmdInfo58 b now ok s
  | .cmdInfo59 b now ok => Sys2Proof.Machine.execCmdInfo59 b now ok s
  | .cmdInfo5A b now ok => Sys2Proof.Machine.execCmdInfo5A b now ok s
  | .cmdInfo5B b now ok => Sys2Proof.Machine.execCmdInfo5B b now ok s
  | .cmdInfo5C b now ok => Sys2Proof.Machine.execCmdInfo5C b now ok s
  | .cmdInfo5D b now ok => Sys2Proof.Machine.execCmdInfo5D b now ok s
  | .cmdInfo5E b now ok => Sys2Proof.Machine.execCmdInfo5E b now ok s
  | .cmdInfo5F b now ok => Sys2Proof.Machine.execCmdInfo5F b now ok s
  | .cmdInfo60 b now ok => Sys2Proof.Machine.execCmdInfo60 b now ok s
  | .cmdInfo61 b now ok => Sys2Proof.Machine.execCmdInfo61 b now ok s
  | .cmdInfo62 b now ok => Sys2Proof.Machine.execCmdInfo62 b now ok s
  | .cmdInfo63 b now ok => Sys2Proof.Machine.execCmdInfo63 b now ok s
  | .cmdStatus90 b now ok => Sys2Proof.Machine.execCmdStatus90 b now ok s
  | .cmdStatus91 b now ok => Sys2Proof.Machine.execCmdStatus91 b now ok s
  | .cmdStatus92 b now ok => Sys2Proof.Machine.execCmdStatus92 b now ok s
  | .cmdStatus93 b now ok => Sys2Proof.Machine.execCmdStatus93 b now ok s
  | .cmdStatus94 b now ok => Sys2Proof.Machine.execCmdStatus94 b now ok s
  | .cmdStatus95 b now ok => Sys2Proof.Machine.execCmdStatus95 b now ok s
  | .cmdStatus96 b now ok => Sys2Proof.Machine.execCmdStatus96 b now ok s
  | .cmdStatus97 b now ok => Sys2Proof.Machine.execCmdStatus97 b now ok s
  | .cmdStatus98 b now ok => Sys2Proof.Machine.execCmdStatus98 b now ok s
  | .cmdDischargeMosfet b now ok => Sys2Proof.Machine.execCmdDischargeMosfet b now ok s
  | .cmdChargeMosfet b now ok => Sys2Proof.Machine.execCmdChargeMosfet b now ok s
  | .checksum f => Sys2Proof.Machine.execChecksum f s
  | .encode c r p => Sys2Proof.Machine.execEncode c r p s
  | .decode f => Sys2Proof.Machine.execDecode f s
  | .validate f r => Sys2Proof.Machine.execValidate f r s
  | .getU8 f off => Sys2Proof.Machine.execGetU8 f off s
  | .getU16 f off => Sys2Proof.Machine.execGetU16 f off s
  | .getU32 f off => Sys2Proof.Machine.execGetU32 f off s
  | .getBit f off bitpos => Sys2Proof.Machine.execGetBit f off bitpos s
  | .getBitL f idx => Sys2Proof.Machine.execGetBitL f idx s
  | .decDeci f off => Sys2Proof.Machine.execDecDeci f off s
  | .decMilli f off => Sys2Proof.Machine.execDecMilli f off s
  | .decCurrent f off => Sys2Proof.Machine.execDecCurrent f off s
  | .decTemp f off => Sys2Proof.Machine.execDecTemp f off s
  | .decDuration f off => Sys2Proof.Machine.execDecDuration f off s
  | .decBits f off => Sys2Proof.Machine.execDecBits f off s
  | .rxPoll now ok => Sys2Proof.Machine.execRxPoll now ok s
  | .drain now ok => Sys2Proof.Machine.execDrain now ok s
  | .txFrame f now ok => Sys2Proof.Machine.execTxFrame f now ok s
  | .rxByte b now ok => Sys2Proof.Machine.execRxByte b now ok s
  | .decTriple f off => Sys2Proof.Machine.execDecTriple f off s
  | .decScaled16 f off divisor => Sys2Proof.Machine.execDecScaled16 f off divisor s
  | .decScaled32 f off divisor => Sys2Proof.Machine.execDecScaled32 f off divisor s
  | .prepare c p => Sys2Proof.Machine.execPrepare c p s
  | .route f now ok => Sys2Proof.Machine.execRoute f now ok s
  | .setValid c now => Sys2Proof.Machine.execSetValid c now s
  | .isReq c => Sys2Proof.Machine.execIsReq c s
  | .isValid c => Sys2Proof.Machine.execIsValid c s
  | .lastValid c => Sys2Proof.Machine.execLastValid c s
  | .setCount c count => Sys2Proof.Machine.execSetCount c count s
  | .process f now ok => Sys2Proof.Machine.execProcess f now ok s

end Sys2Proof.Machine
end

