-- ==== Sys2Proof/Machine/Step.lean ====
section
/-!
DEFINITION. One step of the machine: the first action of the inbox is performed (log entry 7). An instruction word is
decoded and executed; a word the table does not hold still has the effect the spec gives it: a reserved OPSEL is refused
with ST_ILLEGAL_OP (spec/30_encoding.md R94), a frame word of no row is taken by the receiver (R93; log entry 15).
-/

namespace Sys2Proof.Machine

/-- An encoded word executed. -/
def stepWord (e : Encoded) (s : State) : Outcome :=
  match decode e with
  | .ok i => exec i s
  | .error _ =>
    match e with
    | .op _ => guarded s (.next (s.refuse .illegalOp))
    | .frame w now ok => receiveFrame (wordToFrame w) now ok s

/-- One step: the first action of the inbox. With an empty inbox the block is idle and keeps all state (R249, R260;
log entry 11). -/
def step (s : State) : Host.Outcome State Fault Refusal :=
  match s.inbox with
  | [] => .next s
  | .instr e :: rest => stepWord e { s with inbox := rest }
  | .linkRx bytes :: rest => .next ({ s with inbox := rest }.linkAppend bytes)
  | .reset :: rest => .next { s with inbox := rest }.applyReset

/-- `s` with the instruction word `w` of `nbits` bits presented next (log entry 7). -/
def State.withFetchWord (s : State) (nbits w : Nat) : State :=
  match tableWord nbits w with
  | some e => { s with inbox := .instr e :: s.inbox }
  | none => s

end Sys2Proof.Machine
end

