-- ==== Sys2Proof/Machine/Pseudo.lean ====
section
/-!
DEFINITION. The pseudo-operations REQUEST, READ, SWITCH and PUMP: fixed sequences of operations that the host issues; they
have no OPSEL and are no instructions (spec/30_encoding.md R98, spec/42_sequencer.md R185; log entry 19).
-/

namespace Sys2Proof.Machine

/-- `REQUEST c, P`: PREPARE then TXFRAME of its result, for a present and requestable descriptor; otherwise nothing is
sent and no event is emitted (R185). With FAULT = 1 the first operation is refused (R232). -/
def request (c : CmdCode) (p : Payload) (now : Time) (ok : Bool) (s : State) : Outcome :=
  guarded s
    (withDesc s c fun fam =>
      if requestable fam (s.row c).itemCount then
        match execPrepare c p s with
        | .next s1 => execTxFrame (wordToFrame s1.res) now ok s1
        | other => other
      else .next (s.refuse .notRequestable))

/-- `READ c`: REQUEST with the zero payload (R98, R86). -/
def readCmd (c : CmdCode) (now : Time) (ok : Bool) (s : State) : Outcome :=
  request c (Vector.replicate 8 0) now ok s

/-- `SWITCH c, on` and `SWITCH c, off` for a MOSFET command (R86, R98). -/
def switchCmd (c : CmdCode) (on : Bool) (now : Time) (ok : Bool) (s : State) : Outcome :=
  request c #v[if on then 1 else 0, 0, 0, 0, 0, 0, 0, 0] now ok s

/-- Bytes that the link delivers before the next operation of the host, if that is the next action (R70). -/
def State.linkArrival (s : State) : State :=
  match s.inbox with
  | .linkRx bytes :: rest => { s with inbox := rest }.linkAppend bytes
  | _ => s

/-- `Complete` of command `c` among the events a state has beyond the first `n`. -/
def completedSince (n : Nat) (c : CmdCode) (s : State) : Bool :=
  (s.evq.drop n).any fun e =>
    match e with
    | .complete c' _ => c' == c
    | _ => false

/-- `PUMP`: DRAIN repeated until the awaited `Complete` of command `c` is seen or a DRAIN processes no byte, one that is refused
included (R98, R232). The list gives each DRAIN its levels of NOW and DECODE_OK, and its length bounds the repetitions
(log entry 19). -/
def pump : List (Time × Bool) → CmdCode → State → Outcome
  | [], _, s => .next s
  | (now, ok) :: rest, c, s =>
    match execDrain now ok s.linkArrival with
    | .next s1 =>
      if s1.status ≠ .ok ∨ completedSince s.evq.length c s1 = true ∨ s1.res = 0 then .next s1 else pump rest c s1
    | other => other

end Sys2Proof.Machine
end

