-- ==== Sys2Proof/Safety.lean ====
section
/-!
DEFINITION. The terms the claims use: a good state (spec/60_exceptions.md R232), the invariant of the machine, what "only the
answer changes" means, and runs of several operations.
-/

namespace Sys2Proof.Machine

/-- A good state: FAULT = 0. Every claim about an operation takes it as a premise (R232). -/
abbrev State.Good (s : State) : Prop := s.block.fault = false

/-- `t` differs from `s` in the port's answer only: STATUS, RES and the model's count of free values. -/
def OnlyAnswer (s t : State) : Prop := t = { s with status := t.status, res := t.res, draws := t.draws }

/-- The position invariant of R24. -/
def Block.ParserOk (b : Block) : Prop :=
  match b.pstate with
  | .wfs => b.rxidx = 0
  | .hdr => 1 ≤ b.rxidx.toNat ∧ b.rxidx.toNat ≤ 3
  | .cnt => 4 ≤ b.rxidx.toNat ∧ b.rxidx.toNat ≤ 12

/-- The partial frame: a frame in progress starts with the start byte (R141), and once RXIDX has reached HDR_CHECK_AT its
address byte is in the expected range (R142). -/
def Block.BufferOk (cfg : Configuration) (b : Block) : Prop :=
  (b.pstate ≠ .wfs → b.rxbuf[0] = cfg.startByte) ∧
    (b.pstate ≠ .wfs → cfg.hdrCheck.index ≤ b.rxidx.toNat → addrInRange cfg b.rxbuf[1] = true)

/-- FAULTCODE and FAULTINFO describe the first fault: 0 while FAULT = 0, a cause code of R230 while FAULT = 1
(R26, R42, R231). -/
def Block.FaultRegsOk (b : Block) : Prop :=
  (b.fault = false → b.faultcode = 0 ∧ b.faultinfo = 0) ∧
    (b.fault = true → b.faultcode = wfBytes ∨ b.faultcode = wfBitpos ∨ b.faultcode = wfLinear)

/-- A descriptor row: an absent one is at its reset values (R20), only an ARRAY row has an item count (R32, R183), and a
SINGLE row that is not blocked has a zero counter (R177). -/
def RowOk (fam : Option Family) (d : Desc) : Prop :=
  match fam with
  | none => d = {}
  | some .single => d.itemCount = 0 ∧ (d.blocked = false → d.rxcnt = 0)
  | some (.seq _) => d.itemCount = 0
  | some (.array _) => True

/-- The invariant that every step keeps. -/
structure Invariant (s : State) : Prop where
  parser : s.block.ParserOk
  buffer : s.block.BufferOk s.cfg
  faultRegs : s.block.FaultRegsOk
  rows : ∀ c, RowOk (s.desc c) (s.row c)

/-- Several operations in issue order, each complete before the next (R72). -/
def runAll : List Instr → State → Outcome
  | [], s => .next s
  | i :: is, s =>
    match exec i s with
    | .next s' => runAll is s'
    | .fault r => .fault r
    | .refused r => .refused r

/-- The level of NOW after some turns of the link and the pins, `now` before them (R147; log entry 8). -/
def nowAfter (now : Time) (turns : List LinkTick) : Time := turns.foldl (fun level t => t.now.getD level) now

/-- The level of DECODE_OK after some turns, `ok` before them (R147; log entry 8). -/
def okAfter (ok : Bool) (turns : List LinkTick) : Bool := turns.foldl (fun level t => t.decodeOk.getD level) ok

/-- The bytes the link appends in some turns, in stream order (R70). -/
def appended (turns : List LinkTick) : List Byte := turns.flatMap LinkTick.rx

/-- RXBYTE on each byte of a stream in order, byte `j` with the levels of NOW and DECODE_OK after `j` turns of the script
(R147: sampled for each byte separately). -/
def rxBytesOf (stream : List Byte) (script : List LinkTick) (now : Time) (ok : Bool) : List Instr :=
  stream.mapIdx fun j b => .rxByte b (nowAfter now (script.take j)) (okAfter ok (script.take j))

/-- The registers of the PARSER: RXBUF, PSTATE, RXIDX (R20). -/
def Block.parserRegs (b : Block) : Vector Byte 13 × PState × BitVec 4 := (b.rxbuf, b.pstate, b.rxidx)

/-- The command codes the spec lists (R89). -/
def listedCodes : List CmdCode :=
  [0x00, 0x50, 0x51, 0x52, 0x53, 0x54, 0x55, 0x56, 0x57, 0x58, 0x59, 0x5A, 0x5B, 0x5C, 0x5D, 0x5E, 0x5F, 0x60, 0x61,
   0x62, 0x63, 0x90, 0x91, 0x92, 0x93, 0x94, 0x95, 0x96, 0x97, 0x98, 0xD9, 0xDA]

/-- The frame of a FRAME13 instruction with the levels of NOW and DECODE_OK in its step; `none` for a host operation (R80). -/
def frameOf (i : Instr) : Option (Frame × Time × Bool) :=
  i.frameFields.map fun (c, b, now, ok) => (mkFrame c b, now, ok)

/-- `s` after WindowFault entry with a cause code, the operands recorded and a meaningless RES (R231). -/
def afterWindowFault (s : State) (code : BitVec 4) (info : BitVec 16) (r : ResWord) : State :=
  { s with
    block := { s.block with fault := true, faultcode := code, faultinfo := info }
    status := .window
    res := r
    draws := s.draws + 1 }

/-- `s` after a refusal: only STATUS and RES, RES meaningless (R10, R95). -/
def afterRefusal (s : State) (st : Status) (r : ResWord) : State :=
  { s with status := st, res := r, draws := s.draws + 1 }

/-- The value of RXCNT[c] after the increment of a PROCESS: `sat16(RXCNT[c] + 1)` (R28, R174). -/
def countAfter (s : State) (c : CmdCode) : Nat := min ((s.row c).rxcnt.toNat + 1) 65535

/-- The sequence byte as a number (R170). -/
def seqNumber (s : State) (f : Frame) : Nat := (seqByte s.cfg f).toNat

/-- Expected(c) for a descriptor of family `fam` (R36). -/
def expectedCount (s : State) (c : CmdCode) : Family → Nat
  | .single => 1
  | .seq n => n.val.toNat
  | .array per => ((s.row c).itemCount.toNat + per.val.toNat - 1) / per.val.toNat

/-- The sequence test of R175 on sequence byte `b`, counter `n` and expected count `N`. -/
def SeqAccepts (cfg : Configuration) (b n N : Nat) : Family → Prop
  | .single => True
  | .seq _ => b = n
  | .array _ => 1 ≤ b ∧ b ≤ N ∧ (b = n ∨ cfg.arrayOrderStrict = false)

/-- The frame index of R175. -/
def acceptedIndex (b n : Nat) : Family → Nat
  | .single => n
  | .seq _ => n
  | .array _ => b

/-- The frame `f` is the next expected one of its command: not blocked, not in excess, in sequence (R174). -/
def NextExpected (s : State) (fam : Family) (f : Frame) : Prop :=
  (s.row f[2]).blocked = false ∧ countAfter s f[2] ≤ expectedCount s f[2] fam ∧
    SeqAccepts s.cfg (seqNumber s f) (countAfter s f[2]) (expectedCount s f[2] fam) fam

/-- `s` after PROCESS, ROUTE or SETVALID wrote row `c` and the inputs NOW and DECODE_OK were sampled. -/
def afterRow (s : State) (now : Time) (ok : Bool) (c : CmdCode) (d : Desc) (events : List Event) (r : ResWord) : State :=
  { s with
    now := now
    decodeOk := ok
    block := s.block.setRow c d
    evq := s.evq ++ events
    status := .ok
    res := r
    draws := s.draws + 1 }

/-- `s` with the inputs NOW and DECODE_OK sampled, the parser's registers written and ST_OK answered. -/
def afterByte (s : State) (now : Time) (ok : Bool) (buf : Vector Byte 13) (p : PState) (i : BitVec 4)
    (events : List Event) (r : ResWord) : State :=
  { s with
    now := now
    decodeOk := ok
    block := { s.block with rxbuf := buf, pstate := p, rxidx := i }
    evq := s.evq ++ events
    status := .ok
    res := r
    draws := s.draws + 1 }

/-- The events `t` has beyond those of `s`. -/
def newEvents (s t : State) : List Event := t.evq.drop s.evq.length

/-- The instruction is a PREPARE of command `c`. -/
def IsPrepareOf (c : CmdCode) (i : Instr) : Prop := ∃ p, i = .prepare c p

/-- The instruction names command `c` on the port, or carries a frame of it to PROCESS or ROUTE (R171). -/
def NamesCommand (c : CmdCode) (i : Instr) : Prop :=
  (∃ p, i = .prepare c p) ∨ (∃ now, i = .setValid c now) ∨ (∃ n, i = .setCount c n) ∨
    (∃ f now ok, f[2] = c ∧ (i = .process f now ok ∨ i = .route f now ok))

/-- The CODEC and VALDEC operations (R92). -/
def IsCodecOrValdec : Instr → Bool
  | .checksum _ | .encode _ _ _ | .decode _ | .validate _ _ | .getU8 _ _ | .getU16 _ _ | .getU32 _ _ | .getBit _ _ _
  | .getBitL _ _ | .decDeci _ _ | .decMilli _ _ | .decCurrent _ _ | .decTemp _ _ | .decDuration _ _ | .decBits _ _
  | .decTriple _ _ | .decScaled16 _ _ _ | .decScaled32 _ _ _ => true
  | _ => false

end Sys2Proof.Machine
end

