-- ==== Sys2Proof/WellFormed.lean ====
section
/-!
DEFINITION. Which configurations the hardware can have (spec/10_state.md R33, spec/93_implementation_defined.md U19), and
which instructions keep the host's static duties (spec/70_reset_and_hazards.md R276, spec/43_value_decoders.md R218) and
the legal values of a frame's fields (spec/30_encoding.md R80). An ill-formed instruction is still decoded and run: the
spec gives it its effect. An ill-formed configuration is refused.
-/

namespace Sys2Proof

/-- A row of DESC_CFG as the fields of R33. -/
structure RawDesc where
  present : Bool
  family : BitVec 2
  fixedCount : Byte
  itemsPerFrame : Byte
deriving DecidableEq, Repr

/-- The parameters of R8 whose value may be illegal, as plain numbers. -/
structure RawParams where
  seqOff : Nat
  hdrCheckAt : Nat
deriving DecidableEq, Repr

/-- Why a configuration is no configuration of the hardware (U19, R33, R170, D4). -/
inductive ConfigError where
  | illegalFamily
  | zeroFixedCount
  | zeroItemsPerFrame
  | seqOffOutsideWindow
  | hdrCheckNeither2Nor4
deriving DecidableEq, Repr

/-- The family of a DESC_CFG row, or why the row is illegal (R33, U19; log entry 18). -/
def RawDesc.family? (d : RawDesc) : Except ConfigError Family :=
  if d.family = 0 then .ok .single
  else if d.family = 1 then
    if h : d.fixedCount ≠ 0 then .ok (.seq ⟨d.fixedCount, h⟩) else .error .zeroFixedCount
  else if d.family = 2 then
    if h : d.itemsPerFrame ≠ 0 then .ok (.array ⟨d.itemsPerFrame, h⟩) else .error .zeroItemsPerFrame
  else .error .illegalFamily

/-- A DESC_CFG row checked: `none` where PRESENT = 0 (R33). -/
def RawDesc.check (d : RawDesc) : Except ConfigError (Option Family) :=
  d.family?.map fun fam => if d.present then some fam else none

/-- The parameters checked (R8, R170, D4). -/
def RawParams.check (q : RawParams) : Except ConfigError (Fin 8 × HdrCheck) :=
  if h : q.seqOff < 8 then
    if q.hdrCheckAt = 2 then .ok (⟨q.seqOff, h⟩, .afterAddress)
    else if q.hdrCheckAt = 4 then .ok (⟨q.seqOff, h⟩, .afterHeader)
    else .error .hdrCheckNeither2Nor4
  else .error .seqOffOutsideWindow

/-- A whole configuration from its raw rows and parameters over a base that gives the rest (U19). U19 lists no constraint on
RX_ADDR_MIN and RX_ADDR_MAX, and none is checked (DESIGN CHOICE, log entry 27; safe). -/
def Configuration.ofRaw (base : Configuration) (q : RawParams) (rows : Vector RawDesc 256) :
    Except ConfigError Configuration :=
  match q.check, rows.mapM RawDesc.check with
  | .ok (off, at'), .ok descs => .ok { base with seqOff := off, hdrCheck := at', descs := descs }
  | .error e, _ => .error e
  | _, .error e => .error e

/-- The legal values of a frame's open fields: an address of one of the two roles and the right checksum (R80). -/
def wellFormedFrame (c : CmdCode) (b : OpenFields) : Bool :=
  (b.address == 0x01 || b.address == 0x40) && b.checksum == Machine.checksum (mkFrame c b)

/-- The host's static duties: `off + n <= 8`, `bitpos <= 7`, `idx <= 63`, a divisor that is not 0 (R276, R218); for a
FRAME13 row the legal field values (R80). -/
def Instr.wellFormed (i : Instr) : Bool :=
  match i with
  | .cmdReset b _ _ => wellFormedFrame 0x00 b
  | .cmdInfo50 b _ _ => wellFormedFrame 0x50 b
  | .cmdInfo51 b _ _ => wellFormedFrame 0x51 b
  | .cmdInfo52 b _ _ => wellFormedFrame 0x52 b
  | .cmdInfo53 b _ _ => wellFormedFrame 0x53 b
  | .cmdInfo54 b _ _ => wellFormedFrame 0x54 b
  | .cmdInfo55 b _ _ => wellFormedFrame 0x55 b
  | .cmdInfo56 b _ _ => wellFormedFrame 0x56 b
  | .cmdInfo57 b _ _ => wellFormedFrame 0x57 b
  | .cmdInfo58 b _ _ => wellFormedFrame 0x58 b
  | .cmdInfo59 b _ _ => wellFormedFrame 0x59 b
  | .cmdInfo5A b _ _ => wellFormedFrame 0x5A b
  | .cmdInfo5B b _ _ => wellFormedFrame 0x5B b
  | .cmdInfo5C b _ _ => wellFormedFrame 0x5C b
  | .cmdInfo5D b _ _ => wellFormedFrame 0x5D b
  | .cmdInfo5E b _ _ => wellFormedFrame 0x5E b
  | .cmdInfo5F b _ _ => wellFormedFrame 0x5F b
  | .cmdInfo60 b _ _ => wellFormedFrame 0x60 b
  | .cmdInfo61 b _ _ => wellFormedFrame 0x61 b
  | .cmdInfo62 b _ _ => wellFormedFrame 0x62 b
  | .cmdInfo63 b _ _ => wellFormedFrame 0x63 b
  | .cmdStatus90 b _ _ => wellFormedFrame 0x90 b
  | .cmdStatus91 b _ _ => wellFormedFrame 0x91 b
  | .cmdStatus92 b _ _ => wellFormedFrame 0x92 b
  | .cmdStatus93 b _ _ => wellFormedFrame 0x93 b
  | .cmdStatus94 b _ _ => wellFormedFrame 0x94 b
  | .cmdStatus95 b _ _ => wellFormedFrame 0x95 b
  | .cmdStatus96 b _ _ => wellFormedFrame 0x96 b
  | .cmdStatus97 b _ _ => wellFormedFrame 0x97 b
  | .cmdStatus98 b _ _ => wellFormedFrame 0x98 b
  | .cmdDischargeMosfet b _ _ => wellFormedFrame 0xD9 b
  | .cmdChargeMosfet b _ _ => wellFormedFrame 0xDA b
  | .checksum _ => true
  | .encode _ _ _ => true
  | .decode _ => true
  | .validate _ _ => true
  | .getU8 _ off => decide (off.toNat + 1 ≤ payloadSize)
  | .getU16 _ off => decide (off.toNat + 2 ≤ payloadSize)
  | .getU32 _ off => decide (off.toNat + 4 ≤ payloadSize)
  | .getBit _ off bitpos => decide (off.toNat + 1 ≤ payloadSize) && decide (bitpos.toNat ≤ 7)
  | .getBitL _ idx => decide (idx.toNat ≤ 63)
  | .decDeci _ off => decide (off.toNat + 2 ≤ payloadSize)
  | .decMilli _ off => decide (off.toNat + 2 ≤ payloadSize)
  | .decCurrent _ off => decide (off.toNat + 2 ≤ payloadSize)
  | .decTemp _ off => decide (off.toNat + 1 ≤ payloadSize)
  | .decDuration _ off => decide (off.toNat + 1 ≤ payloadSize)
  | .decBits _ off => decide (off.toNat + 1 ≤ payloadSize)
  | .rxPoll _ _ => true
  | .drain _ _ => true
  | .txFrame _ _ _ => true
  | .rxByte _ _ _ => true
  | .decTriple _ off => decide (off.toNat + 3 ≤ payloadSize)
  | .decScaled16 _ off divisor => decide (off.toNat + 2 ≤ payloadSize) && divisor != 0
  | .decScaled32 _ off divisor => decide (off.toNat + 4 ≤ payloadSize) && divisor != 0
  | .prepare _ _ => true
  | .route _ _ _ => true
  | .setValid _ _ => true
  | .isReq _ => true
  | .isValid _ => true
  | .lastValid _ => true
  | .setCount _ _ => true
  | .process _ _ _ => true

end Sys2Proof
end

