-- ==== Sys2Proof/Certificates/Slice0/Obligations.lean ====
section
/-!
DEFINITION. The statements for the provers, one def Obligations.<Name> : Prop each, from the numbered rules of spec/.
Files in the docstrings are files of spec/; a log entry is notes/assumptions/<n>.md.
-/

open Sys2Proof Sys2Proof.Machine

/-! ### Encoding -/

/-- Decoding the word of an instruction gives the instruction, with every operand at every value (30_encoding.md R80,
R81, R90, R92). -/
def Obligations.DecodeOfEncodeIsTheInstruction : Prop :=
  ∀ i : Instr, Sys2Proof.decode (Sys2Proof.encode i) = .ok i

/-- A frame word that decodes is the word of the instruction it decodes to: no bit of it is dropped, nor the levels of
NOW and DECODE_OK beside it (R80, R81). -/
def Obligations.EncodeOfDecodedFrameIsTheWord : Prop :=
  ∀ (w : BitVec 104) (now : Time) (ok : Bool) (i : Instr), Sys2Proof.decode (.frame w now ok) = .ok i →
    Sys2Proof.encode i = .frame w now ok

/-- R81: a frame belongs to a row of the table iff its word under the mask is the row's match; R89 lists the codes. -/
def Obligations.FrameIsInstructionIffItMatchesARow : Prop :=
  ∀ (w : BitVec 104) (now : Time) (ok : Bool),
    (∃ i, Sys2Proof.decode (.frame w now ok) = .ok i) ↔
      ∃ c ∈ listedCodes,
        w &&& 0xFF00FFFF000000000000000000#104 = 0xA5000008000000000000000000#104 ||| c.setWidth 104 <<< 80

/-- R92, R94: every OPSEL value but the reserved 0x00 and 0x17 selects an operation. -/
def Obligations.PortInputIsInstructionUnlessOpselReserved : Prop :=
  ∀ q : PortIn, (∃ i, Sys2Proof.decode (.op q) = .ok i) ↔ q.opsel ≠ 0x00#5 ∧ q.opsel ≠ 0x17#5

/-- Words written out from the spec's encodings decode to the instructions they stand for: the request Q90 and the
response R90 of 95_test_vectors.md, the switch request of S4, and the OPSEL numbers of R92 over operand fields of
zeros. -/
def Obligations.WordsOfTheSpecDecode : Prop :=
  (∀ (now : Time) (ok : Bool),
    Sys2Proof.decode (.frame 0xA540900800000000000000007D now ok) =
      .ok (.cmdStatus90 ⟨0x40, #v[0, 0, 0, 0, 0, 0, 0, 0], 0x7D⟩ now ok) ∧
    Sys2Proof.decode (.frame 0xA501900800C875300384000032 now ok) =
      .ok (.cmdStatus90 ⟨0x01, #v[0x00, 0xC8, 0x75, 0x30, 0x03, 0x84, 0x00, 0x00], 0x32⟩ now ok) ∧
    Sys2Proof.decode (.frame 0xA540D9080100000000000000C7 now ok) =
      .ok (.cmdDischargeMosfet ⟨0x40, #v[1, 0, 0, 0, 0, 0, 0, 0], 0xC7⟩ now ok)) ∧
  Sys2Proof.decode (.op { opsel := 0x01 }) = .ok (.checksum (Vector.replicate 13 0)) ∧
  Sys2Proof.decode (.op { opsel := 0x0C }) = .ok (.decCurrent (Vector.replicate 13 0) 0) ∧
  Sys2Proof.decode (.op { opsel := 0x11, now := 0x3ED, decodeOk := 0 }) = .ok (.drain 0x3ED false) ∧
  Sys2Proof.decode (.op { opsel := 0x11, now := 0x3ED, decodeOk := 1 }) = .ok (.drain 0x3ED true) ∧
  Sys2Proof.decode (.op { opsel := 0x1E }) = .ok (.setCount 0 0)

/-! ### The step -/

/-- A step at an inbox whose first action is an instruction word runs the decoded instruction; the step itself only takes
the word from the inbox (log entry 7). -/
def Obligations.StepRunsTheDecodedInstruction : Prop :=
  ∀ (s : State) (e : Encoded) (rest : List Input) (i : Instr),
    s.inbox = .instr e :: rest → Sys2Proof.decode e = .ok i →
      step s = exec i { s with inbox := rest }

/-- R94: a reserved OPSEL is refused with ST_ILLEGAL_OP, no state change, no event. -/
def Obligations.ReservedOpselIsRefused : Prop :=
  ∀ (s : State) (q : PortIn) (rest : List Input),
    s.Good → s.inbox = .instr (.op q) :: rest → (q.opsel = 0x00#5 ∨ q.opsel = 0x17#5) →
      ∃ r, step s = .next (afterRefusal { s with inbox := rest } .illegalOp r)

/-- A frame word that is no row of the table (an unlisted command code, a wrong start or length byte) is taken by the receiver
like any other: its step is that of thirteen RXBYTE operations, but for the answer (R93, log entry 15). -/
def Obligations.UnlistedFrameIsReceivedByteByByte : Prop :=
  ∀ (s : State) (w : BitVec 104) (now : Time) (ok : Bool) (rest : List Input) (err : DecodeError),
    s.Good → s.block.ParserOk → s.inbox = .instr (.frame w now ok) :: rest →
    Sys2Proof.decode (.frame w now ok) = .error err →
      ∃ t t', step s = .next t ∧
        runAll ((wordToFrame w).toList.map fun b => .rxByte b now ok) { s with inbox := rest } = .next t' ∧
        t = { t' with status := .ok, res := t.res, draws := t.draws }

/-- R249: with no action pending the block is idle and keeps all state; R70: the link appends bytes to RXQ in order, and
nothing else changes (log entries 7, 11). -/
def Obligations.IdleStepAndLinkBytes : Prop :=
  (∀ s : State, s.inbox = [] → step s = .next s) ∧
  (∀ (s : State) (bytes : List Byte) (rest : List Input), s.inbox = .linkRx bytes :: rest →
    step s = .next { s with inbox := rest, rxq := s.rxq ++ bytes })

/-- R42, R260, R261: what the reset pulse leaves, FAULT = 1 or not: every register at its reset value but RXBUF, EVQ empty, RXQ
and the configuration untouched. That STATUS, RES, the pins, `wire`, `txok` and `script` survive the pulse is the model's choice,
no word of R42 (log entries 3, 13, 22). -/
def Obligations.ResetPulseLeavesTheResetState : Prop :=
  ∀ (s : State) (rest : List Input), s.inbox = .reset :: rest →
    ∃ buf, step s = .next { s with
      inbox := rest
      evq := []
      draws := s.draws + 1
      block :=
        { rxbuf := buf, pstate := .wfs, rxidx := 0, fault := false, faultcode := 0, faultinfo := 0,
          descs := Vector.replicate 256
            { rxcnt := 0, valid := false, vtime := 0, blocked := false, itemCount := 0 } } }

/-- R42 of State.reset: PSTATE, RXIDX, FAULT, FAULTCODE, FAULTINFO, every descriptor row and EVQ. -/
def Obligations.StateAfterResetHoldsTheSpecValues : Prop :=
  State.reset.block.pstate = .wfs ∧ State.reset.block.rxidx = 0 ∧ State.reset.block.fault = false ∧
  State.reset.block.faultcode = 0 ∧ State.reset.block.faultinfo = 0 ∧ State.reset.evq = [] ∧
  ∀ c, (State.reset.row c).rxcnt = 0 ∧ (State.reset.row c).valid = false ∧ (State.reset.row c).vtime = 0 ∧
    (State.reset.row c).blocked = false ∧ (State.reset.row c).itemCount = 0

/-! ### Whole-machine rules -/

/-- Every step keeps `Invariant`: the position invariant of R24, the partial frame starts with the start byte and
from HDR_CHECK_AT on has an address in range (R141, R142), FAULTCODE and FAULTINFO describe the first fault (R26, R231), rows of
absent descriptors are never written (R20), only ARRAY rows have an item count (R183), a SINGLE row that is not blocked
has a zero counter (R177). -/
def Obligations.EveryStepKeepsTheInvariant : Prop :=
  ∀ s t : State, Invariant s → step s = .next t → Invariant t

/-- The reset state meets the invariant, whatever the configuration (R42). -/
def Obligations.ResetStateMeetsTheInvariant : Prop :=
  Invariant State.reset ∧ ∀ cfg, Invariant (State.resetWith cfg)

/-- R33: no step changes the configuration. -/
def Obligations.StepNeverChangesTheConfiguration : Prop :=
  ∀ s t : State, step s = .next t → t.cfg = s.cfg

/-- From a state that meets the invariant no step stops: it answers a next state (U20: the stuck position is
unreachable). -/
def Obligations.InvariantStateAlwaysSteps : Prop :=
  ∀ s : State, Invariant s → ∃ t, step s = .next t

/-- R232, R11: while FAULT = 1 every operation of every unit is refused with ST_FAULTED; nothing is polled, written, emitted or
changed. The second clause says it of the step of every encoded word: those that decode, a reserved OPSEL (FAULT is tested first,
R239; log entry 21) and a frame word of no row (log entry 15). -/
def Obligations.EveryOperationIsRefusedWhileFaulted : Prop :=
  (∀ (i : Instr) (s : State), s.block.fault = true → ∃ r, exec i s = .next (afterRefusal s .faulted r)) ∧
  (∀ (e : Encoded) (s : State) (rest : List Input), s.block.fault = true → s.inbox = .instr e :: rest →
    ∃ r, step s = .next (afterRefusal { s with inbox := rest } .faulted r))

/-- R231: an operation that raises WindowFault records it, answers ST_WINDOW and changes nothing else; no event is
emitted. -/
def Obligations.WindowFaultChangesNothingElse : Prop :=
  ∀ (i : Instr) (s t : State), s.Good → exec i s = .next t → t.block.fault = true →
    t = afterWindowFault s t.block.faultcode t.block.faultinfo t.res

/-- R276: an instruction that keeps the host's static duties raises no WindowFault. -/
def Obligations.WellFormedInstructionRaisesNoFault : Prop :=
  ∀ (i : Instr) (s t : State), i.wellFormed = true → exec i s = .next t → t.block.fault = s.block.fault

/-- R260: an operation clears VALID[c] only by a decode failure of command c in that operation. -/
def Obligations.OnlyDecodeFailureClearsValid : Prop :=
  ∀ (i : Instr) (s t : State) (c : CmdCode), exec i s = .next t → (s.row c).valid = true → (t.row c).valid = false →
    ∃ k, Event.decodeFail c k ∈ newEvents s t

/-- R186 item 1 and R171, over all operations: the registers of a command change only in an operation that names the
command or in which a frame of the command is received. -/
def Obligations.RowChangesOnlyForItsCommand : Prop :=
  ∀ (i : Instr) (s t : State) (c : CmdCode), exec i s = .next t → t.row c ≠ s.row c →
    NamesCommand c i ∨ ∃ f : Frame, f[2] = c ∧ Event.receive f ∈ newEvents s t

/-- R186 item 6: a blocked command stays blocked, and no frame of it is accepted, in every operation but its own
PREPARE. -/
def Obligations.BlockedCommandAcceptsNothingUntilPrepare : Prop :=
  ∀ (i : Instr) (s t : State) (c : CmdCode), exec i s = .next t → (s.row c).blocked = true → ¬ IsPrepareOf c i →
    (t.row c).blocked = true ∧ ∀ k p last, Event.accept c k p last ∉ newEvents s t

/-- R121 item 7 and R220: the CODEC and VALDEC operations change no register of the parser and of the descriptors, emit
nothing and touch no stream. -/
def Obligations.CodecAndDecodersKeepParserAndDescriptors : Prop :=
  ∀ (i : Instr) (s t : State), IsCodecOrValdec i = true → exec i s = .next t →
    t = { s with
      block := { s.block with fault := t.block.fault, faultcode := t.block.faultcode, faultinfo := t.block.faultinfo }
      status := t.status
      res := t.res
      draws := t.draws }

/-! ### CODEC -/

/-- R111: CHECKSUM answers the sum of bytes 0..11 modulo 256. -/
def Obligations.ChecksumAnswersTheSumModulo256 : Prop :=
  ∀ (f : Frame) (s : State), s.Good →
    ∃ t, exec (.checksum f) s = .next t ∧ t.status = .ok ∧
      t.res.toNat = ((f.toList.take 12).map BitVec.toNat).sum % 256 ∧ OnlyAnswer s t

/-- R112: ENCODE answers the frame with the header fields, the payload in order and the checksum at byte 12. -/
def Obligations.EncodeBuildsTheFrame : Prop :=
  ∀ (c : CmdCode) (r : Role) (p : Payload) (s : State), s.Good →
    ∃ (t : State) (g : Frame), exec (.encode c r p) s = .next t ∧ t.status = .ok ∧ t.res = frameToWord g ∧
      g[0] = s.cfg.startByte ∧ g[1] = (match r with | .dev2host => s.cfg.addrDev2Host | .host2dev => s.cfg.addrHost2Dev) ∧
      g[2] = c ∧ g[3] = s.cfg.lenByte ∧ (∀ (i : Nat) (h : i < 8), g[4 + i] = p[i]) ∧
      g[12].toNat = ((g.toList.take 12).map BitVec.toNat).sum % 256 ∧ OnlyAnswer s t

/-- R113: DECODE answers address, command and payload in the low 80 bits of RES, and checks nothing. -/
def Obligations.DecodeAnswersAddressCommandPayload : Prop :=
  ∀ (f : Frame) (s : State), s.Good →
    ∃ t, exec (.decode f) s = .next t ∧ t.status = .ok ∧
      t.res.extractLsb' 0 80 = f[1] ++ f[2] ++ f[4] ++ f[5] ++ f[6] ++ f[7] ++ f[8] ++ f[9] ++ f[10] ++ f[11] ∧
      OnlyAnswer s t

/-- R114: VALIDATE answers true iff start, address of the role, length and checksum all match; R120: iff ErrMask is 0. -/
def Obligations.ValidateAnswersTheFourTests : Prop :=
  ∀ (f : Frame) (r : Role) (s : State), s.Good →
    ∃ t, exec (.validate f r) s = .next t ∧ t.status = .ok ∧ OnlyAnswer s t ∧
      (t.res.getLsbD 0 = true ↔
        f[0] = s.cfg.startByte ∧
        f[1] = (match r with | .dev2host => s.cfg.addrDev2Host | .host2dev => s.cfg.addrHost2Dev) ∧
        f[3] = s.cfg.lenByte ∧ f[12].toNat = ((f.toList.take 12).map BitVec.toNat).sum % 256) ∧
      (t.res.getLsbD 0 = true ↔ errMask s.cfg f r = 0)

/-- R115, R116, R117 inside the window: big-endian, unsigned, at every offset at which the access fits (R63, R64, R65). -/
def Obligations.AccessorsReadTheWindowBigEndian : Prop :=
  ∀ (f : Frame) (off : Byte) (s : State), s.Good →
    (∀ h : off.toNat + 1 ≤ 8, ∃ t, exec (.getU8 f off) s = .next t ∧ t.status = .ok ∧
      t.res.toNat = (f[4 + off.toNat]'(by omega)).toNat ∧ OnlyAnswer s t) ∧
    (∀ h : off.toNat + 2 ≤ 8, ∃ t, exec (.getU16 f off) s = .next t ∧ t.status = .ok ∧
      t.res.toNat = (f[4 + off.toNat]'(by omega)).toNat * 256 + (f[5 + off.toNat]'(by omega)).toNat ∧
      OnlyAnswer s t) ∧
    (∀ h : off.toNat + 4 ≤ 8, ∃ t, exec (.getU32 f off) s = .next t ∧ t.status = .ok ∧
      t.res.toNat = (f[4 + off.toNat]'(by omega)).toNat * 2 ^ 24 + (f[5 + off.toNat]'(by omega)).toNat * 2 ^ 16 +
        (f[6 + off.toNat]'(by omega)).toNat * 2 ^ 8 + (f[7 + off.toNat]'(by omega)).toNat ∧
      OnlyAnswer s t)

/-- R118, R119 inside the window: bit position 0 is the least significant with BIT_LSB0; without it the byte is read
mirrored (log entry 17); linear index i is bit i mod 8 of payload byte i div 8 (R62). -/
def Obligations.BitAccessorsReadOneBit : Prop :=
  ∀ (f : Frame) (s : State), s.Good →
    (∀ (off pos : Byte) (h : off.toNat ≤ 7), pos.toNat ≤ 7 →
      ∃ t, exec (.getBit f off pos) s = .next t ∧ t.status = .ok ∧ OnlyAnswer s t ∧
        t.res.getLsbD 0 = (f[4 + off.toNat]'(by omega)).getLsbD
          (if s.cfg.bitLsb0 then pos.toNat else 7 - pos.toNat)) ∧
    (∀ (idx : Byte) (h : idx.toNat ≤ 63),
      ∃ t, exec (.getBitL f idx) s = .next t ∧ t.status = .ok ∧ OnlyAnswer s t ∧
        t.res.getLsbD 0 = (f[4 + idx.toNat / 8]'(by omega)).getLsbD
          (if s.cfg.bitLsb0 then idx.toNat % 8 else 7 - idx.toNat % 8))

/-- R230, R231, R63: an access outside the payload window, a bit position above 7 and a linear index above 63 raise
WindowFault with the cause code and the operands of R230; in GETBIT the offset is tested first (R239). -/
def Obligations.AccessOutsideTheWindowRaisesWindowFault : Prop :=
  ∀ (f : Frame) (off : Byte) (s : State), s.Good →
    (off.toNat + 1 > 8 →
      (∀ i ∈ [Instr.getU8 f off, .decTemp f off, .decDuration f off, .decBits f off],
        ∃ r, exec i s = .next (afterWindowFault s 1 (off ++ 1#8) r)) ∧
      ∀ pos, ∃ r, exec (.getBit f off pos) s = .next (afterWindowFault s 1 (off ++ 1#8) r)) ∧
    (off.toNat + 2 > 8 →
      (∀ i ∈ [Instr.getU16 f off, .decDeci f off, .decMilli f off, .decCurrent f off],
        ∃ r, exec i s = .next (afterWindowFault s 1 (off ++ 2#8) r)) ∧
      ∀ d : BitVec 32, d ≠ 0 → ∃ r, exec (.decScaled16 f off d) s = .next (afterWindowFault s 1 (off ++ 2#8) r)) ∧
    (off.toNat + 3 > 8 → ∃ r, exec (.decTriple f off) s = .next (afterWindowFault s 1 (off ++ 3#8) r)) ∧
    (off.toNat + 4 > 8 →
      (∃ r, exec (.getU32 f off) s = .next (afterWindowFault s 1 (off ++ 4#8) r)) ∧
      ∀ d : BitVec 32, d ≠ 0 → ∃ r, exec (.decScaled32 f off d) s = .next (afterWindowFault s 1 (off ++ 4#8) r)) ∧
    (∀ pos : Byte, off.toNat ≤ 7 → pos.toNat > 7 →
      ∃ r, exec (.getBit f off pos) s = .next (afterWindowFault s 2 (off ++ pos) r)) ∧
    (∀ idx : Byte, idx.toNat > 63 → ∃ r, exec (.getBitL f idx) s = .next (afterWindowFault s 3 (0#8 ++ idx) r))

/-- R121 items 2, 3 and 4: an encoded frame validates for its role and decodes to its address, command and payload; and
encoding the command and the payload of a valid frame gives the frame. -/
def Obligations.EncodeAndDecodeAreInverseOnValidFrames : Prop :=
  ∀ (cfg : Configuration) (r : Role),
    (∀ (c : CmdCode) (p : Payload),
      validate cfg (encodeFrame cfg c r p) r = true ∧ (encodeFrame cfg c r p)[1] = roleAddr cfg r ∧
        (encodeFrame cfg c r p)[2] = c ∧ payloadOf (encodeFrame cfg c r p) = p) ∧
    (∀ f : Frame, validate cfg f r = true → encodeFrame cfg f[2] r (payloadOf f) = f)

/-- R121 item 6: changing exactly one of bytes 0..11 of a valid frame makes VALIDATE false. -/
def Obligations.OneChangedByteInvalidatesTheFrame : Prop :=
  ∀ (cfg : Configuration) (f g : Frame) (r : Role) (j : Nat) (hj : j < 12), validate cfg f r = true →
    f[j] ≠ g[j] → (∀ (k : Nat) (hk : k < 13), k ≠ j → f[k] = g[k]) → validate cfg g r = false

/-! ### VALDEC -/

/-- R211 to R216 inside the window: each decoder answers its exact rational, `num` as a 33-bit two's-complement integer
above a 32-bit `den` (R210; the places on RES are the model's choice, log entry 14), DEC_BITS the byte itself,
whatever BIT_LSB0 is: that it is not mirrored with BIT_LSB0 = false is the model's choice (log entry 17). -/
def Obligations.DecodersAnswerExactRationals : Prop :=
  ∀ (f : Frame) (off : Byte) (s : State), s.Good →
    (∀ h : off.toNat + 2 ≤ 8,
      let raw : Int := ((f[4 + off.toNat]'(by omega)).toNat * 256 + (f[5 + off.toNat]'(by omega)).toNat : Nat)
      (∃ t, exec (.decDeci f off) s = .next t ∧ t.status = .ok ∧ OnlyAnswer s t ∧
        (t.res.extractLsb' 32 33).toInt = raw ∧ t.res.extractLsb' 0 32 = 10) ∧
      (∃ t, exec (.decMilli f off) s = .next t ∧ t.status = .ok ∧ OnlyAnswer s t ∧
        (t.res.extractLsb' 32 33).toInt = raw ∧ t.res.extractLsb' 0 32 = 1000) ∧
      (∃ t, exec (.decCurrent f off) s = .next t ∧ t.status = .ok ∧ OnlyAnswer s t ∧
        (t.res.extractLsb' 32 33).toInt = raw - 30000 ∧ t.res.extractLsb' 0 32 = 10)) ∧
    (∀ h : off.toNat + 1 ≤ 8,
      let raw : Int := ((f[4 + off.toNat]'(by omega)).toNat : Nat)
      (∃ t, exec (.decTemp f off) s = .next t ∧ t.status = .ok ∧ OnlyAnswer s t ∧
        (t.res.extractLsb' 32 33).toInt = raw - 40 ∧ t.res.extractLsb' 0 32 = 1) ∧
      (∃ t, exec (.decDuration f off) s = .next t ∧ t.status = .ok ∧ OnlyAnswer s t ∧
        (t.res.extractLsb' 32 33).toInt = raw * 60 ∧ t.res.extractLsb' 0 32 = 1) ∧
      (∃ t, exec (.decBits f off) s = .next t ∧ t.status = .ok ∧ OnlyAnswer s t ∧
        t.res.extractLsb' 0 8 = f[4 + off.toNat]'(by omega)))

/-- R217, R218, R219 inside the window: three raw bytes, the first most significant (log entry 14), and raw over the
caller's divisor; a zero divisor is refused with ST_BAD_OPERAND at every offset, with no fault. -/
def Obligations.TripleAndScaledDecodersAnswer : Prop :=
  ∀ (f : Frame) (off : Byte) (s : State), s.Good →
    (∀ h : off.toNat + 3 ≤ 8, ∃ t, exec (.decTriple f off) s = .next t ∧ t.status = .ok ∧ OnlyAnswer s t ∧
      t.res.extractLsb' 0 24 =
        f[4 + off.toNat]'(by omega) ++ f[5 + off.toNat]'(by omega) ++ f[6 + off.toNat]'(by omega)) ∧
    (∀ (d : BitVec 32) (h : off.toNat + 2 ≤ 8), d ≠ 0 →
      ∃ t, exec (.decScaled16 f off d) s = .next t ∧ t.status = .ok ∧ OnlyAnswer s t ∧ t.res.extractLsb' 0 32 = d ∧
        (t.res.extractLsb' 32 33).toInt =
          ((f[4 + off.toNat]'(by omega)).toNat * 256 + (f[5 + off.toNat]'(by omega)).toNat : Nat)) ∧
    (∀ (d : BitVec 32) (h : off.toNat + 4 ≤ 8), d ≠ 0 →
      ∃ t, exec (.decScaled32 f off d) s = .next t ∧ t.status = .ok ∧ OnlyAnswer s t ∧ t.res.extractLsb' 0 32 = d ∧
        (t.res.extractLsb' 32 33).toInt =
          ((f[4 + off.toNat]'(by omega)).toNat * 2 ^ 24 + (f[5 + off.toNat]'(by omega)).toNat * 2 ^ 16 +
            (f[6 + off.toNat]'(by omega)).toNat * 2 ^ 8 + (f[7 + off.toNat]'(by omega)).toNat : Nat)) ∧
    (∃ r, exec (.decScaled16 f off 0) s = .next (afterRefusal s .badOperand r)) ∧
    (∃ r, exec (.decScaled32 f off 0) s = .next (afterRefusal s .badOperand r))

/-! ### PARSER -/

/-- R141: RXBYTE in WaitingForStart stores a start byte and moves to (HDR, 1), and discards every other byte. -/
def Obligations.RxByteWhileWaitingForStart : Prop :=
  ∀ (b : Byte) (now : Time) (ok : Bool) (s : State), s.Good → s.block.pstate = .wfs →
    (b = s.cfg.startByte → ∃ r, exec (.rxByte b now ok) s =
      .next (afterByte s now ok (s.block.rxbuf.set 0 b) .hdr 1 [] r)) ∧
    (b ≠ s.cfg.startByte → ∃ r, exec (.rxByte b now ok) s =
      .next (afterByte s now ok s.block.rxbuf .wfs s.block.rxidx [] r))

/-- R142: RXBYTE in ProcessingHeader stores at RXIDX; at HDR_CHECK_AT an address out of range aborts to (WFS, 0) without
an event; the fourth byte ends the header; otherwise RXIDX advances. -/
def Obligations.RxByteInTheHeader : Prop :=
  ∀ (b : Byte) (now : Time) (ok : Bool) (s : State) (h : s.block.rxidx.toNat < 13), s.Good → s.block.pstate = .hdr →
    let buf := s.block.rxbuf.set s.block.rxidx.toNat b
    let i := s.block.rxidx.toNat + 1
    let inRange := s.cfg.rxAddrMin.toNat ≤ buf[1].toNat ∧ buf[1].toNat ≤ s.cfg.rxAddrMax.toNat
    let checked := i = (match s.cfg.hdrCheck with | .afterAddress => 2 | .afterHeader => 4)
    (checked ∧ ¬ inRange → ∃ r, exec (.rxByte b now ok) s = .next (afterByte s now ok buf .wfs 0 [] r)) ∧
    (¬ (checked ∧ ¬ inRange) → i = 4 →
      ∃ r, exec (.rxByte b now ok) s = .next (afterByte s now ok buf .cnt 4 [] r)) ∧
    (¬ (checked ∧ ¬ inRange) → i ≠ 4 →
      ∃ r, exec (.rxByte b now ok) s = .next (afterByte s now ok buf .hdr (BitVec.ofNat 4 i) [] r))

/-- R143: RXBYTE in ProcessingContent stores at RXIDX; short of 13 bytes RXIDX advances; with 13 the parser returns to
(WFS, 0), an invalid frame emits `Error` and changes nothing else, and a valid one emits `Receive` and is routed in the
same step. -/
def Obligations.RxByteInTheContent : Prop :=
  ∀ (b : Byte) (now : Time) (ok : Bool) (s : State) (h : s.block.rxidx.toNat < 13), s.Good → s.block.pstate = .cnt →
    let buf : Frame := s.block.rxbuf.set s.block.rxidx.toNat b
    let i := s.block.rxidx.toNat + 1
    (i < 13 → ∃ r, exec (.rxByte b now ok) s = .next (afterByte s now ok buf .cnt (BitVec.ofNat 4 i) [] r)) ∧
    (i = 13 → validate s.cfg buf .dev2host = false →
      ∃ r, exec (.rxByte b now ok) s = .next (afterByte s now ok buf .wfs 0 [.error buf] r)) ∧
    (i = 13 → validate s.cfg buf .dev2host = true →
      ∃ t, exec (.rxByte b now ok) s = .next t ∧
        exec (.route buf now ok)
          { s with block := { s.block with rxbuf := buf, pstate := .wfs, rxidx := 0 },
                   evq := s.evq ++ [.receive buf] } = .next t)

/-- U20: an RXIDX of 13 to 15 in HDR or CNT, which no rule writes, is stuck (log entry 12). -/
def Obligations.UnreachableIndexIsStuck : Prop :=
  ∀ (b : Byte) (now : Time) (ok : Bool) (s : State), s.Good → s.block.pstate ≠ .wfs → 13 ≤ s.block.rxidx.toNat →
    exec (.rxByte b now ok) s = .fault .parserIndexStuck

/-- R145: RXPOLL on an empty RXQ answers false and changes nothing; otherwise it takes the oldest byte, performs RXBYTE on
it and answers true. That the Boolean is in bit 0 of RES is the model's choice (log entry 14): R90 names no place for it. -/
def Obligations.RxPollTakesTheOldestByte : Prop :=
  ∀ (now : Time) (ok : Bool) (s : State), s.Good →
    (s.rxq = [] → ∃ r, exec (.rxPoll now ok) s =
        .next { s with now := now, decodeOk := ok, status := .ok, res := r, draws := s.draws + 1 } ∧
      r.getLsbD 0 = false) ∧
    (∀ (b : Byte) (q : List Byte), s.rxq = b :: q → s.block.ParserOk →
      ∃ t t', exec (.rxPoll now ok) s = .next t ∧ exec (.rxByte b now ok) { s with rxq := q } = .next t' ∧
        t.res.getLsbD 0 = true ∧ t = { t' with res := t.res })

/-- R147, when the link stays silent during the DRAIN: it performs RXBYTE on every byte of RXQ in order, leaves RXQ empty
and answers the number of bytes. That the count is a number on all of RES is the model's choice (log entry 14). -/
def Obligations.DrainReceivesTheQueueInOrder : Prop :=
  ∀ (now : Time) (ok : Bool) (s : State), s.Good → s.block.ParserOk → s.script = [] →
    ∃ t t', exec (.drain now ok) s = .next t ∧ t.status = .ok ∧ t.res = BitVec.ofNat 104 s.rxq.length ∧
      runAll (s.rxq.map fun b => .rxByte b now ok) { s with rxq := [] } = .next t' ∧
      t = { t' with now := now, decodeOk := ok, status := .ok, res := t.res, draws := t.draws }

/-- R147, R70, R72, with any action of the link and the pins between two polls: DRAIN ends at the first empty poll, after `k`
turns of the script, the least number after which no byte is left (or the script is over). It is RXBYTE on every byte of the
stream in order, the bytes of RXQ first, then those the turns appended, byte `j` with NOW and DECODE_OK as they are after `j` turns;
so RXBUF, the position, the descriptor rows and EVQ are those these RXBYTE operations leave, and the answer counts the bytes. That
there is one turn of the script after each byte is the model's choice (log entry 8), and so is the count's place on RES (log
entry 14). -/
def Obligations.DrainEndsAtTheFirstEmptyPoll : Prop :=
  ∀ (now : Time) (ok : Bool) (s : State), s.Good → s.block.ParserOk →
    ∃ (t t' : State) (k : Nat),
      let turns := s.script.take k
      let stream := s.rxq ++ appended turns
      exec (.drain now ok) s = .next t ∧ t.status = .ok ∧ t.rxq = [] ∧
      k = min stream.length s.script.length ∧
      (∀ j, j < k → j < (s.rxq ++ appended (s.script.take j)).length) ∧
      t.res = BitVec.ofNat 104 stream.length ∧
      t.cfg = s.cfg ∧ t.inbox = s.inbox ∧ t.wire = s.wire ∧ t.txok = s.txok ∧ t.block.ParserOk ∧ t.Good ∧
      runAll (rxBytesOf stream s.script now ok) { s with rxq := [] } = .next t' ∧
      t = { t' with
        script := s.script.drop k
        now := nowAfter now turns
        decodeOk := okAfter ok turns
        status := .ok
        res := t.res
        draws := t.draws }

/-- R148: TXFRAME emits `Transmit`, hands the frame to the link, performs a DRAIN and answers what the link answered; it
does not validate the frame and touches no descriptor itself. -/
def Obligations.TxFrameTransmitsThenDrains : Prop :=
  ∀ (f : Frame) (now : Time) (ok : Bool) (s : State), s.Good → s.block.ParserOk →
    ∃ t t', exec (.txFrame f now ok) s = .next t ∧
      exec (.drain now ok) { s with evq := s.evq ++ [.transmit f], wire := s.wire ++ [f], txok := s.txok.tail,
                                    draws := s.draws + 1 } = .next t' ∧
      (∀ b rest, s.txok = b :: rest → t.res.getLsbD 0 = b) ∧
      t = { t' with res := t.res }

/-- A FRAME13 instruction is its 13 bytes taken by RXBYTE in order, from whatever position the parser is in, but for the
answer (R93, R140; log entry 6). -/
def Obligations.FrameIsThirteenRxBytes : Prop :=
  ∀ (i : Instr) (f : Frame) (now : Time) (ok : Bool) (s : State), frameOf i = some (f, now, ok) → s.Good →
    s.block.ParserOk →
    ∃ t t', exec i s = .next t ∧
      runAll (f.toList.map fun b => .rxByte b now ok) s = .next t' ∧
      t = { t' with status := .ok, res := t.res, draws := t.draws }

/-- R149 item 1 for every FRAME13 instruction: from (WFS, 0) a frame that validates for DEV2HOST emits exactly one
`Receive`, followed by the events of its routing, and ends at (WFS, 0). R149 takes 0x01 to be in range; here the device's
address is a premise. -/
def Obligations.ValidFrameIsReceivedAndRouted : Prop :=
  ∀ (i : Instr) (f : Frame) (now : Time) (ok : Bool) (s : State), frameOf i = some (f, now, ok) → s.Good →
    s.block.pstate = .wfs → s.block.rxidx = 0 → validate s.cfg f .dev2host = true →
    s.cfg.rxAddrMin.toNat ≤ f[1].toNat → f[1].toNat ≤ s.cfg.rxAddrMax.toNat →
      ∃ t, exec i s = .next t ∧ t.block.pstate = .wfs ∧ t.block.rxidx = 0 ∧
        exec (.route f now ok)
          { s with block := { s.block with rxbuf := f }, evq := s.evq ++ [.receive f] } = .next t

/-- R149 item 4 and R143 for every FRAME13 instruction: from (WFS, 0) a frame whose address is in range and that does not
validate emits `Error` and nothing else, and changes no descriptor. A row's byte 0 is 0xA5; where a configuration has another
START_BYTE (U9), `FrameIsThirteenRxBytes` says what the row does. -/
def Obligations.InvalidFrameIsAnError : Prop :=
  ∀ (i : Instr) (f : Frame) (now : Time) (ok : Bool) (s : State), frameOf i = some (f, now, ok) → s.Good →
    s.block.pstate = .wfs → s.block.rxidx = 0 → f[0] = s.cfg.startByte → validate s.cfg f .dev2host = false →
    s.cfg.rxAddrMin.toNat ≤ f[1].toNat → f[1].toNat ≤ s.cfg.rxAddrMax.toNat →
      ∃ r, exec i s = .next { s with
        now := now
        decodeOk := ok
        block := { s.block with rxbuf := f }
        evq := s.evq ++ [.error f]
        status := .ok
        res := r
        draws := s.draws + 1 }

/-- R142 for every FRAME13 instruction with the default HDR_CHECK_AT: from (WFS, 0) a frame whose address is out of range is
dropped after its four header bytes without an event, and the rest, when it holds no start byte, is discarded. Byte 0 as above. -/
def Obligations.FrameOfAnotherParticipantIsDropped : Prop :=
  ∀ (i : Instr) (f : Frame) (now : Time) (ok : Bool) (s : State), frameOf i = some (f, now, ok) → s.Good →
    s.block.pstate = .wfs → s.block.rxidx = 0 → f[0] = s.cfg.startByte → s.cfg.hdrCheck = .afterHeader →
    (f[1].toNat < s.cfg.rxAddrMin.toNat ∨ s.cfg.rxAddrMax.toNat < f[1].toNat) →
    (∀ (j : Nat) (hj : j < 13), 4 ≤ j → f[j] ≠ s.cfg.startByte) →
      ∃ t, exec i s = .next t ∧ t.status = .ok ∧
        t = { s with
          now := now
          decodeOk := ok
          block := { s.block with rxbuf := t.block.rxbuf }
          status := t.status
          res := t.res
          draws := t.draws } ∧
        ∀ (j : Nat) (hj : j < 13), t.block.rxbuf[j] = if j < 4 then f[j] else s.block.rxbuf[j]

/-- R149 item 2: from (WFS, 0) a byte string without the start byte emits nothing and ends at (WFS, 0): a DRAIN of it changes RXQ
and the answer only. -/
def Obligations.NoiseWithoutStartByteLeavesNoTrace : Prop :=
  ∀ (now : Time) (ok : Bool) (s : State), s.Good → s.block.pstate = .wfs → s.script = [] → s.cfg.startByte ∉ s.rxq →
    ∃ t, exec (.drain now ok) s = .next t ∧ OnlyAnswer { s with now := now, decodeOk := ok, rxq := [] } t

/-- R149 item 5: the parser's registers after a byte string depend on the bytes, not on how they were split across
RXBYTE and DRAIN operations, nor on NOW, DECODE_OK and the descriptors. -/
def Obligations.ParserDependsOnTheBytesOnly : Prop :=
  ∀ (s u : State) (bs : List (Byte × Time × Bool)) (now : Time) (ok : Bool), s.Good → u.Good → s.block.ParserOk →
    s.cfg = u.cfg → s.block.parserRegs = u.block.parserRegs → u.script = [] → u.rxq = bs.map Prod.fst →
      ∃ t v, runAll (bs.map fun x => .rxByte x.1 x.2.1 x.2.2) s = .next t ∧ exec (.drain now ok) u = .next v ∧
        t.block.parserRegs = v.block.parserRegs

/-- R236: the orders of events that one RXBYTE step can emit. -/
def Obligations.RxByteEmitsOneOfTheListedOrders : Prop :=
  ∀ (b : Byte) (now : Time) (ok : Bool) (s t : State), s.Good → exec (.rxByte b now ok) s = .next t →
    ∃ new : List Event, t.evq = s.evq ++ new ∧
      (new = [] ∨ (∃ f, new = [.error f]) ∨ (∃ f c, new = [.receive f, .unrouted c f]) ∨
        (∃ f c why n, new = [.receive f, .reject c why n]) ∨
        (∃ f c k p last, new = [.receive f, .accept c k p last, .decodeFail c k]) ∨
        (∃ f c k p, new = [.receive f, .accept c k p false]) ∨
        (∃ f c k p, new = [.receive f, .accept c k p true, .complete c now]))

/-! ### SEQUENCER -/

/-- R170: every operation but ROUTE that names a command without a descriptor is refused with ST_NOT_PRESENT. -/
def Obligations.AbsentCommandIsRefused : Prop :=
  ∀ (s : State) (c : CmdCode), s.Good → s.desc c = none →
    ∀ i : Instr, ((∃ p, i = .prepare c p) ∨ (∃ now, i = .setValid c now) ∨ i = .isReq c ∨ i = .isValid c ∨
        i = .lastValid c ∨ (∃ n, i = .setCount c n) ∨ (∃ f now ok, f[2] = c ∧ i = .process f now ok)) →
      ∃ r, exec i s = .next (afterRefusal s .notPresent r)

/-- R172: PREPARE answers the request frame, clears RXCNT and BLOCKED of its row, and changes neither VALID nor VTIME. -/
def Obligations.PrepareBuildsTheRequestAndClearsTheCycle : Prop :=
  ∀ (c : CmdCode) (p : Payload) (s : State) (fam : Family), s.Good → s.desc c = some fam →
    exec (.prepare c p) s = .next { s with
      block := s.block.setRow c { s.row c with rxcnt := 0, blocked := false }
      status := .ok
      res := frameToWord (encodeFrame s.cfg c .host2dev p)
      draws := s.draws + 1 }

/-- R180: SETVALID sets VALID, stamps VTIME with NOW, zeroes RXCNT; BLOCKED is not changed and no event is emitted. -/
def Obligations.SetValidStampsTheTime : Prop :=
  ∀ (c : CmdCode) (now : Time) (s : State) (fam : Family), s.Good → s.desc c = some fam →
    ∃ r, exec (.setValid c now) s =
      .next (afterRow s now s.decodeOk c { s.row c with valid := true, vtime := now, rxcnt := 0 } [] r)

/-- R181, R37, R182, R184: the queries answer Requestable(c), VALID[c] and VTIME[c], and change no state. -/
def Obligations.QueriesAnswerTheRow : Prop :=
  ∀ (c : CmdCode) (s : State) (fam : Family), s.Good → s.desc c = some fam →
    (∃ t, exec (.isReq c) s = .next t ∧ t.status = .ok ∧ OnlyAnswer s t ∧
      (t.res.getLsbD 0 = true ↔ ∀ per, fam = .array per → (s.row c).itemCount ≠ 0)) ∧
    (∃ t, exec (.isValid c) s = .next t ∧ t.status = .ok ∧ OnlyAnswer s t ∧ t.res.getLsbD 0 = (s.row c).valid) ∧
    (∃ t, exec (.lastValid c) s = .next t ∧ t.status = .ok ∧ OnlyAnswer s t ∧
      t.res.toNat = (s.row c).vtime.toNat)

/-- R183: SETCOUNT writes ITEMCOUNT of an ARRAY descriptor, and is refused with ST_BAD_OPERAND for any other. -/
def Obligations.SetCountWritesArrayRowsOnly : Prop :=
  ∀ (c : CmdCode) (count : Byte) (s : State), s.Good →
    (∀ per, s.desc c = some (.array per) → ∃ r, exec (.setCount c count) s =
      .next (afterRow s s.now s.decodeOk c { s.row c with itemCount := count } [] r)) ∧
    (s.desc c = some .single ∨ (∃ n, s.desc c = some (.seq n)) →
      ∃ r, exec (.setCount c count) s = .next (afterRefusal s .badOperand r))

/-- R173: ROUTE of a frame without a descriptor emits `Unrouted` and changes no register; otherwise it is PROCESS, with
`Complete` in the step whose PROCESS completes the cycle. -/
def Obligations.RouteProcessesOrLogs : Prop :=
  ∀ (f : Frame) (now : Time) (ok : Bool) (s : State), s.Good →
    (s.desc f[2] = none → ∃ r, exec (.route f now ok) s =
      .next { s with now := now, decodeOk := ok, evq := s.evq ++ [.unrouted f[2] f], status := .ok, res := r,
                     draws := s.draws + 1 }) ∧
    (∀ fam, s.desc f[2] = some fam →
      ∃ t t', exec (.route f now ok) s = .next t ∧ exec (.process f now ok) s = .next t' ∧
        ((NextExpected s fam f ∧ ok = true ∧ countAfter s f[2] = expectedCount s f[2] fam) →
          t = { t' with evq := t'.evq ++ [.complete f[2] now], res := t.res }) ∧
        (¬ (NextExpected s fam f ∧ ok = true ∧ countAfter s f[2] = expectedCount s f[2] fam) →
          t = { t' with res := t.res }))

/-- R174, R177, R238: a frame that is not the next expected one is rejected with the first reason that applies in the
order BLOCKED, EXCESS, SEQUENCE; RXCNT is incremented all the same and nothing else changes. That the
result false is in bit 0 of RES is the model's choice (log entry 14: R90 names no place for it). -/
def Obligations.ProcessRejectsAndCounts : Prop :=
  ∀ (f : Frame) (now : Time) (ok : Bool) (s : State) (fam : Family), s.Good → s.desc f[2] = some fam →
    let d := s.row f[2]
    let n := countAfter s f[2]
    let N := expectedCount s f[2] fam
    let rejected (why : RejectReason) := ∃ r : ResWord, r.getLsbD 0 = false ∧ exec (.process f now ok) s =
      .next (afterRow s now ok f[2] { d with rxcnt := BitVec.ofNat 16 n } [.reject f[2] why (BitVec.ofNat 16 n)] r)
    (d.blocked = true → rejected .blocked) ∧
    (d.blocked = false → n > N → rejected .excess) ∧
    (d.blocked = false → n ≤ N → ¬ SeqAccepts s.cfg (seqNumber s f) n N fam → rejected .sequence)

/-- R174, R175, R176: the next expected frame, short of the last one, is accepted: `Accept` with its frame index, RXCNT
incremented, nothing else. That the result true is in bit 0 of RES is the model's choice (log entry 14: R90 names no place for it). -/
def Obligations.ProcessAcceptsTheNextFrame : Prop :=
  ∀ (f : Frame) (now : Time) (s : State) (fam : Family), s.Good → s.desc f[2] = some fam → NextExpected s fam f →
    countAfter s f[2] ≠ expectedCount s f[2] fam →
      ∃ r : ResWord, r.getLsbD 0 = true ∧ exec (.process f now true) s =
        .next (afterRow s now true f[2] { s.row f[2] with rxcnt := BitVec.ofNat 16 (countAfter s f[2]) }
          [.accept f[2] (acceptedIndex (seqNumber s f) (countAfter s f[2]) fam) (payloadOf f) false] r)

/-- R178, R180: the last expected frame completes the cycle, whatever came before (R271): `Accept`, VALID set, VTIME
stamped with NOW, RXCNT zeroed. That the result true is in bit 0 of RES is the model's choice (log entry 14: R90 names no place for it). -/
def Obligations.ProcessCompletesOnTheLastFrame : Prop :=
  ∀ (f : Frame) (now : Time) (s : State) (fam : Family), s.Good → s.desc f[2] = some fam → NextExpected s fam f →
    countAfter s f[2] = expectedCount s f[2] fam →
      ∃ r : ResWord, r.getLsbD 0 = true ∧ exec (.process f now true) s =
        .next (afterRow s now true f[2] { s.row f[2] with rxcnt := 0, valid := true, vtime := now }
          [.accept f[2] (acceptedIndex (seqNumber s f) (countAfter s f[2]) fam) (payloadOf f) true] r)

/-- R179: a decode failure clears VALID and sets BLOCKED; RXCNT keeps its incremented value, VTIME is unchanged, the
result is false. That it is in bit 0 of RES is the model's choice (log entry 14: R90 names no place for it). -/
def Obligations.DecodeFailureBlocksTheCycle : Prop :=
  ∀ (f : Frame) (now : Time) (s : State) (fam : Family), s.Good → s.desc f[2] = some fam → NextExpected s fam f →
    let k := acceptedIndex (seqNumber s f) (countAfter s f[2]) fam
    ∃ r : ResWord, r.getLsbD 0 = false ∧ exec (.process f now false) s =
      .next (afterRow s now false f[2]
        { s.row f[2] with rxcnt := BitVec.ofNat 16 (countAfter s f[2]), valid := false, blocked := true }
        [.accept f[2] k (payloadOf f) (decide (countAfter s f[2] = expectedCount s f[2] fam)), .decodeFail f[2] k] r)

/-- R186 item 3: for a SEQ descriptor, and for an ARRAY one with ARRAY_ORDER_STRICT, from RXCNT = 0 and BLOCKED = 0 with
DECODE_OK = 1 throughout, the frames with sequence bytes 1, 2, …, N emit N `Accept` events with k = 1..N and complete on
the N-th; VALID does not change before it. -/
def Obligations.InOrderFramesCompleteOnTheLast : Prop :=
  ∀ (s : State) (c : CmdCode) (fam : Family) (fs : List Frame) (now : Time), s.Good → s.desc c = some fam →
    ((∃ n, fam = .seq n) ∨ ((∃ per, fam = .array per) ∧ s.cfg.arrayOrderStrict = true)) →
    (s.row c).rxcnt = 0 → (s.row c).blocked = false →
    fs.length = expectedCount s c fam → fs ≠ [] →
    (∀ (j : Nat) (hj : j < fs.length), fs[j][2] = c ∧ seqNumber s fs[j] = j + 1) →
      (∃ t, runAll (fs.map fun f => .process f now true) s = .next t ∧
        t.row c = { s.row c with rxcnt := 0, valid := true, vtime := now } ∧
        t.evq = s.evq ++ (List.range fs.length).zipWith
          (fun j f => Event.accept c (j + 1) (payloadOf f) (decide (j + 1 = fs.length))) fs) ∧
      (∀ m, m < fs.length → ∃ t, runAll ((fs.take m).map fun f => .process f now true) s = .next t ∧
        t.row c = { s.row c with rxcnt := BitVec.ofNat 16 m })

/-- R185, R186 item 5: REQUEST of an absent command, or of one that is not requestable, sends nothing and emits no event;
otherwise it is PREPARE and then TXFRAME of its result. -/
def Obligations.RequestSendsOnlyRequestableCommands : Prop :=
  ∀ (c : CmdCode) (p : Payload) (now : Time) (ok : Bool) (s : State), s.Good →
    (s.desc c = none → ∃ r, request c p now ok s = .next (afterRefusal s .notPresent r)) ∧
    (∀ per, s.desc c = some (.array per) → (s.row c).itemCount = 0 →
      ∃ r, request c p now ok s = .next (afterRefusal s .notRequestable r)) ∧
    (∀ fam, s.desc c = some fam → (∀ per, fam = .array per → (s.row c).itemCount ≠ 0) →
      ∃ s1, exec (.prepare c p) s = .next s1 ∧
        request c p now ok s = exec (.txFrame (encodeFrame s.cfg c .host2dev p) now ok) s1)
end

