-- ==== Sys2Proof/Laws/Encoding.lean ====
section
/-!
SUPPORT. Words, frames and payloads: each packing and its unpacking are inverse, and what the frame decoder
reads from a frame that `mkFrame` built.
-/

namespace Sys2Proof

/-- Bits above the lower part of an append are the upper part's. -/
theorem extract_append_hi {n m : Nat} (x : BitVec n) (y : BitVec m) (k w : Nat) (h : m ≤ k) :
    (x ++ y).extractLsb' k w = x.extractLsb' (k - m) w := by
  ext i hi
  have : ¬ k + i < m := by omega
  simp only [BitVec.getElem_extractLsb', BitVec.getLsbD_append, this, if_false]
  congr 1
  omega

/-- Bits inside the lower part of an append are the lower part's. -/
theorem extract_append_lo {n m : Nat} (x : BitVec n) (y : BitVec m) (k w : Nat) (h : k + w ≤ m) :
    (x ++ y).extractLsb' k w = y.extractLsb' k w := by
  ext i hi
  have : k + i < m := by omega
  simp [BitVec.getLsbD_append, this]

theorem extract_whole {n : Nat} (x : BitVec n) : x.extractLsb' 0 n = x := by
  ext i hi; simp

/-- Two neighbouring fields of a word, side by side, are one field. -/
theorem extract_join {N : Nat} (x : BitVec N) (k j n m : Nat) (h : k = j + m) :
    x.extractLsb' k n ++ x.extractLsb' j m = x.extractLsb' j (n + m) := by
  subst h
  ext i hi
  by_cases h : i < m
  · simp [BitVec.getElem_append, h]
  · simp only [BitVec.getElem_append, h, dite_false, BitVec.getElem_extractLsb']
    congr 1
    omega

theorem wordToFrame_frameToWord (f : Frame) : wordToFrame (frameToWord f) = f := by
  simp (disch := omega) only [wordToFrame, frameToWord, extract_append_hi, extract_append_lo, Nat.reduceSub,
    extract_whole]
  ext i hi
  interval_cases i <;> rfl

theorem frameToWord_wordToFrame (w : BitVec 104) : frameToWord (wordToFrame w) = w := by
  have h : frameToWord (wordToFrame w) =
      w.extractLsb' 96 8 ++ w.extractLsb' 88 8 ++ w.extractLsb' 80 8 ++ w.extractLsb' 72 8 ++ w.extractLsb' 64 8 ++
        w.extractLsb' 56 8 ++ w.extractLsb' 48 8 ++ w.extractLsb' 40 8 ++ w.extractLsb' 32 8 ++ w.extractLsb' 24 8 ++
        w.extractLsb' 16 8 ++ w.extractLsb' 8 8 ++ w.extractLsb' 0 8 := rfl
  rw [h]
  simp (disch := omega) only [extract_join]
  exact extract_whole w

theorem wordToPayload_payloadToWord (p : Payload) : wordToPayload (payloadToWord p) = p := by
  simp (disch := omega) only [wordToPayload, payloadToWord, extract_append_hi, extract_append_lo, Nat.reduceSub,
    extract_whole]
  ext i hi
  interval_cases i <;> rfl

/-! What ENCODE's frame holds at each offset (R80, R112). -/

section
variable (st a c len : Byte) (p : Payload) (k : Byte)

@[simp] theorem assemble_start : (assemble st a c len p k)[0] = st := rfl
@[simp] theorem assemble_address : (assemble st a c len p k)[1] = a := rfl
@[simp] theorem assemble_command : (assemble st a c len p k)[2] = c := rfl
@[simp] theorem assemble_length : (assemble st a c len p k)[3] = len := rfl
@[simp] theorem assemble_checksum : (assemble st a c len p k)[12] = k := rfl
@[simp] theorem payloadOf_assemble : payloadOf (assemble st a c len p k) = p := by
  ext i hi
  interval_cases i <;> rfl

end

/-! What the frame of a row holds at each offset (R80). -/

section
variable (c : CmdCode) (b : OpenFields)

@[simp] theorem mkFrame_start : (mkFrame c b)[0] = startByte := rfl
@[simp] theorem mkFrame_address : (mkFrame c b)[1] = b.address := rfl
@[simp] theorem mkFrame_command : (mkFrame c b)[2] = c := rfl
@[simp] theorem mkFrame_length : (mkFrame c b)[3] = lenByte := rfl
@[simp] theorem mkFrame_checksum : (mkFrame c b)[12] = b.checksum := rfl
@[simp] theorem payloadOf_mkFrame : payloadOf (mkFrame c b) = b.payload := payloadOf_assemble _ _ _ _ _ _

end

/-- A frame with the right start and length bytes is built from its own fields. -/
theorem mkFrame_eta (f : Frame) (h0 : f[0] = startByte) (h3 : f[3] = lenByte) :
    mkFrame f[2] ⟨f[1], payloadOf f, f[12]⟩ = f := by
  ext i hi
  interval_cases i
  all_goals simp [mkFrame, assemble, payloadOf, ← h0, ← h3]

/-- The frame decoder, the checksum at byte 12. -/
theorem decodeFrame_eq (f : Frame) (now : Time) (ok : Bool) :
    decodeFrame f now ok =
      if f[0] ≠ startByte then .error (.badStart f[0])
      else if f[3] ≠ lenByte then .error (.badLength f[3])
      else decodeCommand f[2] ⟨f[1], payloadOf f, f[12]⟩ now ok := rfl

/-- The frame decoder reads the fields of a frame that `mkFrame` built. -/
theorem decodeFrame_mkFrame (c : CmdCode) (b : OpenFields) (now : Time) (ok : Bool) :
    decodeFrame (mkFrame c b) now ok = decodeCommand c b now ok := by
  simp [decodeFrame_eq]

@[simp] theorem roleOfBit_bitOfRole (r : Role) : roleOfBit (bitOfRole r) = r := by cases r <;> rfl

@[simp] theorem ofBool_beq_one (b : Bool) : (BitVec.ofBool b == 1#1) = b := by cases b <;> rfl

end Sys2Proof
end

