-- ==== Sys2Proof/Laws/State.lean ====
section
/-!
SUPPORT. One lemma per field of State for every update of Machine/Ops.lean (and SETVALID's), and the read-after-write laws
of the descriptor table and of RXBUF.
-/

namespace Sys2Proof.Machine

/-! ### The configuration's sizes and offsets (R7) -/

section
variable (cfg : Configuration)

@[simp] theorem cfg_frameSize : cfg.frameSize.val = 13 := cfg.frameSize.property
@[simp] theorem cfg_headerSize : cfg.headerSize.val = 4 := cfg.headerSize.property
@[simp] theorem cfg_payloadOff : cfg.payloadOff.val = 4 := cfg.payloadOff.property
@[simp] theorem cfg_payloadSize : cfg.payloadSize.val = 8 := cfg.payloadSize.property
@[simp] theorem cfg_cksumOff : cfg.cksumOff.val = 12 := cfg.cksumOff.property

/-- The checksum byte is byte 12 (R7, R80). -/
@[simp] theorem checksumByte_eq (f : Frame) : checksumByte cfg f = f[12] := by simp [checksumByte]

end

section
variable (s : State) (c : CmdCode) (d : Desc)

@[simp] theorem State.setRow_block : (s.setRow c d).block = s.block.setRow c d := rfl
@[simp] theorem State.setRow_cfg : (s.setRow c d).cfg = s.cfg := rfl
@[simp] theorem State.setRow_status : (s.setRow c d).status = s.status := rfl
@[simp] theorem State.setRow_res : (s.setRow c d).res = s.res := rfl
@[simp] theorem State.setRow_evq : (s.setRow c d).evq = s.evq := rfl
@[simp] theorem State.setRow_rxq : (s.setRow c d).rxq = s.rxq := rfl
@[simp] theorem State.setRow_wire : (s.setRow c d).wire = s.wire := rfl
@[simp] theorem State.setRow_txok : (s.setRow c d).txok = s.txok := rfl
@[simp] theorem State.setRow_script : (s.setRow c d).script = s.script := rfl
@[simp] theorem State.setRow_now : (s.setRow c d).now = s.now := rfl
@[simp] theorem State.setRow_decodeOk : (s.setRow c d).decodeOk = s.decodeOk := rfl
@[simp] theorem State.setRow_inbox : (s.setRow c d).inbox = s.inbox := rfl
@[simp] theorem State.setRow_draws : (s.setRow c d).draws = s.draws := rfl

end

section
variable (s : State) (p : PState) (i : BitVec 4)

@[simp] theorem State.setPc_block : (s.setPc p i).block = { s.block with pstate := p, rxidx := i } := rfl
@[simp] theorem State.setPc_cfg : (s.setPc p i).cfg = s.cfg := rfl
@[simp] theorem State.setPc_status : (s.setPc p i).status = s.status := rfl
@[simp] theorem State.setPc_res : (s.setPc p i).res = s.res := rfl
@[simp] theorem State.setPc_evq : (s.setPc p i).evq = s.evq := rfl
@[simp] theorem State.setPc_rxq : (s.setPc p i).rxq = s.rxq := rfl
@[simp] theorem State.setPc_wire : (s.setPc p i).wire = s.wire := rfl
@[simp] theorem State.setPc_txok : (s.setPc p i).txok = s.txok := rfl
@[simp] theorem State.setPc_script : (s.setPc p i).script = s.script := rfl
@[simp] theorem State.setPc_now : (s.setPc p i).now = s.now := rfl
@[simp] theorem State.setPc_decodeOk : (s.setPc p i).decodeOk = s.decodeOk := rfl
@[simp] theorem State.setPc_inbox : (s.setPc p i).inbox = s.inbox := rfl
@[simp] theorem State.setPc_draws : (s.setPc p i).draws = s.draws := rfl

end

section
variable (s : State) (i : Nat) (b : Byte)

@[simp] theorem State.storeByte_block : (s.storeByte i b).block = { s.block with rxbuf := s.block.rxbuf.setIfInBounds i b } := rfl
@[simp] theorem State.storeByte_cfg : (s.storeByte i b).cfg = s.cfg := rfl
@[simp] theorem State.storeByte_status : (s.storeByte i b).status = s.status := rfl
@[simp] theorem State.storeByte_res : (s.storeByte i b).res = s.res := rfl
@[simp] theorem State.storeByte_evq : (s.storeByte i b).evq = s.evq := rfl
@[simp] theorem State.storeByte_rxq : (s.storeByte i b).rxq = s.rxq := rfl
@[simp] theorem State.storeByte_wire : (s.storeByte i b).wire = s.wire := rfl
@[simp] theorem State.storeByte_txok : (s.storeByte i b).txok = s.txok := rfl
@[simp] theorem State.storeByte_script : (s.storeByte i b).script = s.script := rfl
@[simp] theorem State.storeByte_now : (s.storeByte i b).now = s.now := rfl
@[simp] theorem State.storeByte_decodeOk : (s.storeByte i b).decodeOk = s.decodeOk := rfl
@[simp] theorem State.storeByte_inbox : (s.storeByte i b).inbox = s.inbox := rfl
@[simp] theorem State.storeByte_draws : (s.storeByte i b).draws = s.draws := rfl

end

section
variable (s : State) (e : Event)

@[simp] theorem State.emit_block : (s.emit e).block = s.block := rfl
@[simp] theorem State.emit_cfg : (s.emit e).cfg = s.cfg := rfl
@[simp] theorem State.emit_status : (s.emit e).status = s.status := rfl
@[simp] theorem State.emit_res : (s.emit e).res = s.res := rfl
@[simp] theorem State.emit_evq : (s.emit e).evq = s.evq ++ [e] := rfl
@[simp] theorem State.emit_rxq : (s.emit e).rxq = s.rxq := rfl
@[simp] theorem State.emit_wire : (s.emit e).wire = s.wire := rfl
@[simp] theorem State.emit_txok : (s.emit e).txok = s.txok := rfl
@[simp] theorem State.emit_script : (s.emit e).script = s.script := rfl
@[simp] theorem State.emit_now : (s.emit e).now = s.now := rfl
@[simp] theorem State.emit_decodeOk : (s.emit e).decodeOk = s.decodeOk := rfl
@[simp] theorem State.emit_inbox : (s.emit e).inbox = s.inbox := rfl
@[simp] theorem State.emit_draws : (s.emit e).draws = s.draws := rfl

end

section
variable (s : State) (bytes : List Byte)

@[simp] theorem State.linkAppend_block : (s.linkAppend bytes).block = s.block := rfl
@[simp] theorem State.linkAppend_cfg : (s.linkAppend bytes).cfg = s.cfg := rfl
@[simp] theorem State.linkAppend_status : (s.linkAppend bytes).status = s.status := rfl
@[simp] theorem State.linkAppend_res : (s.linkAppend bytes).res = s.res := rfl
@[simp] theorem State.linkAppend_evq : (s.linkAppend bytes).evq = s.evq := rfl
@[simp] theorem State.linkAppend_rxq : (s.linkAppend bytes).rxq = s.rxq ++ bytes := rfl
@[simp] theorem State.linkAppend_wire : (s.linkAppend bytes).wire = s.wire := rfl
@[simp] theorem State.linkAppend_txok : (s.linkAppend bytes).txok = s.txok := rfl
@[simp] theorem State.linkAppend_script : (s.linkAppend bytes).script = s.script := rfl
@[simp] theorem State.linkAppend_now : (s.linkAppend bytes).now = s.now := rfl
@[simp] theorem State.linkAppend_decodeOk : (s.linkAppend bytes).decodeOk = s.decodeOk := rfl
@[simp] theorem State.linkAppend_inbox : (s.linkAppend bytes).inbox = s.inbox := rfl
@[simp] theorem State.linkAppend_draws : (s.linkAppend bytes).draws = s.draws := rfl

end

section
variable (s : State) (f : Frame)

@[simp] theorem State.write_block : (s.write f).block = s.block := rfl
@[simp] theorem State.write_cfg : (s.write f).cfg = s.cfg := rfl
@[simp] theorem State.write_status : (s.write f).status = s.status := rfl
@[simp] theorem State.write_res : (s.write f).res = s.res := rfl
@[simp] theorem State.write_evq : (s.write f).evq = s.evq := rfl
@[simp] theorem State.write_rxq : (s.write f).rxq = s.rxq := rfl
@[simp] theorem State.write_wire : (s.write f).wire = s.wire ++ [f] := rfl
@[simp] theorem State.write_txok : (s.write f).txok = s.txok.tail := rfl
@[simp] theorem State.write_script : (s.write f).script = s.script := rfl
@[simp] theorem State.write_now : (s.write f).now = s.now := rfl
@[simp] theorem State.write_decodeOk : (s.write f).decodeOk = s.decodeOk := rfl
@[simp] theorem State.write_inbox : (s.write f).inbox = s.inbox := rfl
@[simp] theorem State.write_draws : (s.write f).draws = s.draws + 1 := rfl

end

section
variable (s : State) (now : Time)

@[simp] theorem State.setNow_block : (s.setNow now).block = s.block := rfl
@[simp] theorem State.setNow_cfg : (s.setNow now).cfg = s.cfg := rfl
@[simp] theorem State.setNow_status : (s.setNow now).status = s.status := rfl
@[simp] theorem State.setNow_res : (s.setNow now).res = s.res := rfl
@[simp] theorem State.setNow_evq : (s.setNow now).evq = s.evq := rfl
@[simp] theorem State.setNow_rxq : (s.setNow now).rxq = s.rxq := rfl
@[simp] theorem State.setNow_wire : (s.setNow now).wire = s.wire := rfl
@[simp] theorem State.setNow_txok : (s.setNow now).txok = s.txok := rfl
@[simp] theorem State.setNow_script : (s.setNow now).script = s.script := rfl
@[simp] theorem State.setNow_now : (s.setNow now).now = now := rfl
@[simp] theorem State.setNow_decodeOk : (s.setNow now).decodeOk = s.decodeOk := rfl
@[simp] theorem State.setNow_inbox : (s.setNow now).inbox = s.inbox := rfl
@[simp] theorem State.setNow_draws : (s.setNow now).draws = s.draws := rfl

end

section
variable (s : State) (now : Time) (ok : Bool)

@[simp] theorem State.setPins_block : (s.setPins now ok).block = s.block := rfl
@[simp] theorem State.setPins_cfg : (s.setPins now ok).cfg = s.cfg := rfl
@[simp] theorem State.setPins_status : (s.setPins now ok).status = s.status := rfl
@[simp] theorem State.setPins_res : (s.setPins now ok).res = s.res := rfl
@[simp] theorem State.setPins_evq : (s.setPins now ok).evq = s.evq := rfl
@[simp] theorem State.setPins_rxq : (s.setPins now ok).rxq = s.rxq := rfl
@[simp] theorem State.setPins_wire : (s.setPins now ok).wire = s.wire := rfl
@[simp] theorem State.setPins_txok : (s.setPins now ok).txok = s.txok := rfl
@[simp] theorem State.setPins_script : (s.setPins now ok).script = s.script := rfl
@[simp] theorem State.setPins_now : (s.setPins now ok).now = now := rfl
@[simp] theorem State.setPins_decodeOk : (s.setPins now ok).decodeOk = ok := rfl
@[simp] theorem State.setPins_inbox : (s.setPins now ok).inbox = s.inbox := rfl
@[simp] theorem State.setPins_draws : (s.setPins now ok).draws = s.draws := rfl

end

section
variable (s : State) (k : Nat) (v : ResWord)

@[simp] theorem State.answer_block : (s.answer k v).block = s.block := rfl
@[simp] theorem State.answer_cfg : (s.answer k v).cfg = s.cfg := rfl
@[simp] theorem State.answer_status : (s.answer k v).status = .ok := rfl
@[simp] theorem State.answer_res : (s.answer k v).res = overlay k v (Config.freeRes s.draws) := rfl
@[simp] theorem State.answer_evq : (s.answer k v).evq = s.evq := rfl
@[simp] theorem State.answer_rxq : (s.answer k v).rxq = s.rxq := rfl
@[simp] theorem State.answer_wire : (s.answer k v).wire = s.wire := rfl
@[simp] theorem State.answer_txok : (s.answer k v).txok = s.txok := rfl
@[simp] theorem State.answer_script : (s.answer k v).script = s.script := rfl
@[simp] theorem State.answer_now : (s.answer k v).now = s.now := rfl
@[simp] theorem State.answer_decodeOk : (s.answer k v).decodeOk = s.decodeOk := rfl
@[simp] theorem State.answer_inbox : (s.answer k v).inbox = s.inbox := rfl
@[simp] theorem State.answer_draws : (s.answer k v).draws = s.draws + 1 := rfl

end

section
variable (s : State)

@[simp] theorem State.done_block : (s.done).block = s.block := rfl
@[simp] theorem State.done_cfg : (s.done).cfg = s.cfg := rfl
@[simp] theorem State.done_status : (s.done).status = .ok := rfl
@[simp] theorem State.done_res : (s.done).res = Config.freeRes s.draws := rfl
@[simp] theorem State.done_evq : (s.done).evq = s.evq := rfl
@[simp] theorem State.done_rxq : (s.done).rxq = s.rxq := rfl
@[simp] theorem State.done_wire : (s.done).wire = s.wire := rfl
@[simp] theorem State.done_txok : (s.done).txok = s.txok := rfl
@[simp] theorem State.done_script : (s.done).script = s.script := rfl
@[simp] theorem State.done_now : (s.done).now = s.now := rfl
@[simp] theorem State.done_decodeOk : (s.done).decodeOk = s.decodeOk := rfl
@[simp] theorem State.done_inbox : (s.done).inbox = s.inbox := rfl
@[simp] theorem State.done_draws : (s.done).draws = s.draws + 1 := rfl

end

section
variable (s : State) (st : Status)

@[simp] theorem State.refuse_block : (s.refuse st).block = s.block := rfl
@[simp] theorem State.refuse_cfg : (s.refuse st).cfg = s.cfg := rfl
@[simp] theorem State.refuse_status : (s.refuse st).status = st := rfl
@[simp] theorem State.refuse_res : (s.refuse st).res = Config.freeRes s.draws := rfl
@[simp] theorem State.refuse_evq : (s.refuse st).evq = s.evq := rfl
@[simp] theorem State.refuse_rxq : (s.refuse st).rxq = s.rxq := rfl
@[simp] theorem State.refuse_wire : (s.refuse st).wire = s.wire := rfl
@[simp] theorem State.refuse_txok : (s.refuse st).txok = s.txok := rfl
@[simp] theorem State.refuse_script : (s.refuse st).script = s.script := rfl
@[simp] theorem State.refuse_now : (s.refuse st).now = s.now := rfl
@[simp] theorem State.refuse_decodeOk : (s.refuse st).decodeOk = s.decodeOk := rfl
@[simp] theorem State.refuse_inbox : (s.refuse st).inbox = s.inbox := rfl
@[simp] theorem State.refuse_draws : (s.refuse st).draws = s.draws + 1 := rfl

end

section
variable (s : State) (code : BitVec 4) (info : BitVec 16)

@[simp] theorem State.windowFault_block : (s.windowFault code info).block = { s.block with fault := true, faultcode := code, faultinfo := info } := rfl
@[simp] theorem State.windowFault_cfg : (s.windowFault code info).cfg = s.cfg := rfl
@[simp] theorem State.windowFault_status : (s.windowFault code info).status = .window := rfl
@[simp] theorem State.windowFault_res : (s.windowFault code info).res = Config.freeRes s.draws := rfl
@[simp] theorem State.windowFault_evq : (s.windowFault code info).evq = s.evq := rfl
@[simp] theorem State.windowFault_rxq : (s.windowFault code info).rxq = s.rxq := rfl
@[simp] theorem State.windowFault_wire : (s.windowFault code info).wire = s.wire := rfl
@[simp] theorem State.windowFault_txok : (s.windowFault code info).txok = s.txok := rfl
@[simp] theorem State.windowFault_script : (s.windowFault code info).script = s.script := rfl
@[simp] theorem State.windowFault_now : (s.windowFault code info).now = s.now := rfl
@[simp] theorem State.windowFault_decodeOk : (s.windowFault code info).decodeOk = s.decodeOk := rfl
@[simp] theorem State.windowFault_inbox : (s.windowFault code info).inbox = s.inbox := rfl
@[simp] theorem State.windowFault_draws : (s.windowFault code info).draws = s.draws + 1 := rfl

end

section
variable (s : State)

@[simp] theorem State.applyReset_block : (s.applyReset).block = Block.reset (Config.freeRxbuf s.draws) := rfl
@[simp] theorem State.applyReset_cfg : (s.applyReset).cfg = s.cfg := rfl
@[simp] theorem State.applyReset_status : (s.applyReset).status = s.status := rfl
@[simp] theorem State.applyReset_res : (s.applyReset).res = s.res := rfl
@[simp] theorem State.applyReset_evq : (s.applyReset).evq = [] := rfl
@[simp] theorem State.applyReset_rxq : (s.applyReset).rxq = s.rxq := rfl
@[simp] theorem State.applyReset_wire : (s.applyReset).wire = s.wire := rfl
@[simp] theorem State.applyReset_txok : (s.applyReset).txok = s.txok := rfl
@[simp] theorem State.applyReset_script : (s.applyReset).script = s.script := rfl
@[simp] theorem State.applyReset_now : (s.applyReset).now = s.now := rfl
@[simp] theorem State.applyReset_decodeOk : (s.applyReset).decodeOk = s.decodeOk := rfl
@[simp] theorem State.applyReset_inbox : (s.applyReset).inbox = s.inbox := rfl
@[simp] theorem State.applyReset_draws : (s.applyReset).draws = s.draws + 1 := rfl

end

section
variable (s : State) (c : CmdCode)

@[simp] theorem State.setValidRow_block : (s.setValidRow c).block = s.block.setRow c { s.row c with valid := true, vtime := s.now, rxcnt := 0 } := rfl
@[simp] theorem State.setValidRow_cfg : (s.setValidRow c).cfg = s.cfg := rfl
@[simp] theorem State.setValidRow_status : (s.setValidRow c).status = s.status := rfl
@[simp] theorem State.setValidRow_res : (s.setValidRow c).res = s.res := rfl
@[simp] theorem State.setValidRow_evq : (s.setValidRow c).evq = s.evq := rfl
@[simp] theorem State.setValidRow_rxq : (s.setValidRow c).rxq = s.rxq := rfl
@[simp] theorem State.setValidRow_wire : (s.setValidRow c).wire = s.wire := rfl
@[simp] theorem State.setValidRow_txok : (s.setValidRow c).txok = s.txok := rfl
@[simp] theorem State.setValidRow_script : (s.setValidRow c).script = s.script := rfl
@[simp] theorem State.setValidRow_now : (s.setValidRow c).now = s.now := rfl
@[simp] theorem State.setValidRow_decodeOk : (s.setValidRow c).decodeOk = s.decodeOk := rfl
@[simp] theorem State.setValidRow_inbox : (s.setValidRow c).inbox = s.inbox := rfl
@[simp] theorem State.setValidRow_draws : (s.setValidRow c).draws = s.draws := rfl

end

section
variable (b : Block) (c : CmdCode) (d : Desc)

@[simp] theorem Block.setRow_rxbuf : (b.setRow c d).rxbuf = b.rxbuf := rfl
@[simp] theorem Block.setRow_pstate : (b.setRow c d).pstate = b.pstate := rfl
@[simp] theorem Block.setRow_rxidx : (b.setRow c d).rxidx = b.rxidx := rfl
@[simp] theorem Block.setRow_fault : (b.setRow c d).fault = b.fault := rfl
@[simp] theorem Block.setRow_faultcode : (b.setRow c d).faultcode = b.faultcode := rfl
@[simp] theorem Block.setRow_faultinfo : (b.setRow c d).faultinfo = b.faultinfo := rfl

/-- A row just written reads as written. -/
@[simp] theorem Block.row_setRow_same : (b.setRow c d).row c = d := by
  simp [Block.row, Block.setRow]

/-- Writing a row leaves every other row alone. -/
theorem Block.row_setRow_ne (c' : CmdCode) (h : c' ≠ c) : (b.setRow c d).row c' = b.row c' := by
  have hne : c.toNat ≠ c'.toNat := fun e => h (BitVec.eq_of_toNat_eq e.symm)
  simp [Block.row, Block.setRow, hne]

/-- Two writes of one row are the second. -/
@[simp] theorem Block.setRow_setRow (d' : Desc) : (b.setRow c d).setRow c d' = b.setRow c d' := by
  simp [Block.setRow]

/-- Writing back what a row holds changes nothing. -/
@[simp] theorem Block.setRow_row_self : b.setRow c (b.row c) = b := by
  simp [Block.setRow, Block.row]

end

/-- A row of the table after reset. -/
@[simp] theorem Block.row_reset (buf : Vector Byte 13) (c : CmdCode) : (Block.reset buf).row c = {} := by
  simp [Block.row, Block.reset]

section
variable (s : State)

@[simp] theorem State.row_setRow_same (c : CmdCode) (d : Desc) : (s.setRow c d).row c = d := by
  simp [State.row]

theorem State.row_setRow_ne (c c' : CmdCode) (d : Desc) (h : c' ≠ c) : (s.setRow c d).row c' = s.row c' := by
  simp [State.row, Block.row_setRow_ne _ _ _ _ h]

/-- The row read after a row write, as one case distinction. -/
theorem State.row_setRow (c c' : CmdCode) (d : Desc) :
    (s.setRow c d).row c' = if c' = c then d else s.row c' := by
  by_cases h : c' = c
  · subst h; simp
  · simp [h, State.row_setRow_ne]

@[simp] theorem State.row_setPc (p : PState) (i : BitVec 4) (c : CmdCode) : (s.setPc p i).row c = s.row c := rfl
@[simp] theorem State.row_storeByte (i : Nat) (b : Byte) (c : CmdCode) : (s.storeByte i b).row c = s.row c := rfl
@[simp] theorem State.row_emit (e : Event) (c : CmdCode) : (s.emit e).row c = s.row c := rfl
@[simp] theorem State.row_linkAppend (bs : List Byte) (c : CmdCode) : (s.linkAppend bs).row c = s.row c := rfl
@[simp] theorem State.row_write (f : Frame) (c : CmdCode) : (s.write f).row c = s.row c := rfl
@[simp] theorem State.row_setNow (n : Time) (c : CmdCode) : (s.setNow n).row c = s.row c := rfl
@[simp] theorem State.row_setPins (n : Time) (ok : Bool) (c : CmdCode) : (s.setPins n ok).row c = s.row c := rfl
@[simp] theorem State.row_answer (k : Nat) (v : ResWord) (c : CmdCode) : (s.answer k v).row c = s.row c := rfl
@[simp] theorem State.row_done (c : CmdCode) : s.done.row c = s.row c := rfl
@[simp] theorem State.row_refuse (st : Status) (c : CmdCode) : (s.refuse st).row c = s.row c := rfl
@[simp] theorem State.row_windowFault (code : BitVec 4) (info : BitVec 16) (c : CmdCode) :
    (s.windowFault code info).row c = s.row c := rfl
@[simp] theorem State.row_applyReset (c : CmdCode) : s.applyReset.row c = {} := by
  simp [State.row]

end

/-- The configured family depends on the configuration only. -/
theorem State.desc_congr {s t : State} (h : t.cfg = s.cfg) (c : CmdCode) : t.desc c = s.desc c := by
  simp [State.desc, h]

/-- A byte of RXBUF just stored reads as stored. -/
theorem State.storeByte_getElem_same (s : State) (i : Nat) (b : Byte) (h : i < 13) :
    (s.storeByte i b).block.rxbuf[i] = b := by
  simp [State.storeByte]

/-- Storing a byte leaves the other bytes of RXBUF alone. -/
theorem State.storeByte_getElem_ne (s : State) (i j : Nat) (b : Byte) (hj : j < 13) (h : i ≠ j) :
    (s.storeByte i b).block.rxbuf[j] = s.block.rxbuf[j] := by
  simp [State.storeByte, h]

end Sys2Proof.Machine
end

