-- ==== Sys2Proof/Laws/Ops.lean ====
section
/-!
SUPPORT. For each shared operation, what it can do, said once: the guards, the answer, the window, the streams.
-/

namespace Sys2Proof.Machine

/-! ### Guards -/

@[simp] theorem guarded_good (s : State) (run : Outcome) (h : s.block.fault = false) : guarded s run = run := by
  simp [guarded, h]

@[simp] theorem guarded_faulted (s : State) (run : Outcome) (h : s.block.fault = true) :
    guarded s run = .next (s.refuse .faulted) := by
  simp [guarded, h]

/-- What a guarded operation can do: refused with ST_FAULTED, or run with FAULT = 0. -/
theorem guarded_next {s t : State} {run : Outcome} (h : guarded s run = .next t) :
    (s.block.fault = true ∧ t = s.refuse .faulted) ∨ (s.block.fault = false ∧ run = .next t) := by
  cases hf : s.block.fault
  · right; simpa [hf] using h
  · left; simpa [hf, eq_comm] using h

theorem withDesc_none (s : State) (c : CmdCode) (run : Family → Outcome) (h : s.desc c = none) :
    withDesc s c run = .next (s.refuse .notPresent) := by
  simp [withDesc, h]

theorem withDesc_some (s : State) (c : CmdCode) (run : Family → Outcome) (fam : Family) (h : s.desc c = some fam) :
    withDesc s c run = run fam := by
  simp [withDesc, h]

/-- What an operation that names a command can do. -/
theorem withDesc_next {s t : State} {c : CmdCode} {run : Family → Outcome} (h : withDesc s c run = .next t) :
    (s.desc c = none ∧ t = s.refuse .notPresent) ∨ (∃ fam, s.desc c = some fam ∧ run fam = .next t) := by
  cases hd : s.desc c with
  | none => left; simpa [withDesc, hd, eq_comm] using h
  | some fam => right; exact ⟨fam, rfl, by simpa [withDesc, hd] using h⟩

/-! ### The answer -/

/-- A bit of RES below the width of the result is the result's. -/
theorem overlay_getLsbD (k i : Nat) (v free : ResWord) (h : i < k) : (overlay k v free).getLsbD i = v.getLsbD i := by
  by_cases hi : i < 104
  · unfold overlay
    split
    · rfl
    · simp [hi, h]
  · simp [BitVec.getLsbD_of_ge _ _ (Nat.le_of_not_lt hi)]

/-- A result of all 104 bits is RES. -/
@[simp] theorem overlay_full (v free : ResWord) : overlay 104 v free = v := rfl

/-- The bits of RES inside the result are the result's. -/
theorem overlay_extract (k o w : Nat) (v free : ResWord) (h : o + w ≤ k) :
    (overlay k v free).extractLsb' o w = v.extractLsb' o w := by
  ext i hi
  simp only [BitVec.getElem_extractLsb']
  exact overlay_getLsbD k (o + i) v free (by omega)

theorem boolRes_getLsbD (b : Bool) : (boolRes b).getLsbD 0 = b := by
  cases b <;> decide

theorem overlay_boolRes (b : Bool) (free : ResWord) : (overlay 1 (boolRes b) free).getLsbD 0 = b := by
  rw [overlay_getLsbD 1 0 _ _ (by omega), boolRes_getLsbD]

/-- The low field of a narrower word placed on RES. -/
theorem extract_setWidth {n : Nat} (x : BitVec n) (o w : Nat) (h : o + w ≤ n) (hn : n ≤ 104) :
    (x.setWidth 104 : ResWord).extractLsb' o w = x.extractLsb' o w := by
  ext i hi
  have : o + i < 104 := by omega
  simp [this]

/-- Answering changes the answer only. -/
theorem answer_onlyAnswer (s : State) (k : Nat) (v : ResWord) : OnlyAnswer s (s.answer k v) := rfl

/-- A number that fits is RES as a number. -/
theorem natRes_toNat (v : Nat) (h : v < 2 ^ 104) : (natRes v).toNat = v := by
  rw [natRes, BitVec.toNat_ofNat, Nat.mod_eq_of_lt h]

/-! ### The window -/

/-- The window read faults exactly where the access leaves the 8 bytes. -/
theorem windowBytes_none (cfg : Configuration) (f : Frame) (off n : Nat) (h : off + n > 8) : windowBytes cfg f off n = none := by
  simp [windowBytes, h]

theorem windowBytes_some (cfg : Configuration) (f : Frame) (off n : Nat) (h : off + n ≤ 8) :
    windowBytes cfg f off n = some ((f.toList.drop (4 + off)).take n) := by
  simp [windowBytes, Nat.not_lt.mpr h]

theorem frame_drop (f : Frame) (i : Nat) (h : i < 13) : f.toList.drop i = f[i] :: f.toList.drop (i + 1) := by
  have := List.drop_eq_getElem_cons (l := f.toList) (i := i) (by simpa using h)
  simpa using this

theorem windowBytes_one (cfg : Configuration) (f : Frame) (off : Nat) (h : off + 1 ≤ 8) :
    windowBytes cfg f off 1 = some [f[4 + off]] := by
  rw [windowBytes_some cfg f off 1 h, frame_drop f (4 + off) (by omega)]
  simp

theorem windowBytes_two (cfg : Configuration) (f : Frame) (off : Nat) (h : off + 2 ≤ 8) :
    windowBytes cfg f off 2 = some [f[4 + off], f[5 + off]] := by
  rw [windowBytes_some cfg f off 2 h, frame_drop f (4 + off) (by omega), frame_drop f (4 + off + 1) (by omega)]
  have e : 4 + off + 1 = 5 + off := by omega
  simp [e]

theorem windowBytes_three (cfg : Configuration) (f : Frame) (off : Nat) (h : off + 3 ≤ 8) :
    windowBytes cfg f off 3 = some [f[4 + off], f[5 + off], f[6 + off]] := by
  have e : 4 + off + 1 = 5 + off := by omega
  have e' : 5 + off + 1 = 6 + off := by omega
  rw [windowBytes_some cfg f off 3 h, frame_drop f (4 + off) (by omega), e, frame_drop f (5 + off) (by omega), e',
    frame_drop f (6 + off) (by omega)]
  simp

theorem windowBytes_four (cfg : Configuration) (f : Frame) (off : Nat) (h : off + 4 ≤ 8) :
    windowBytes cfg f off 4 = some [f[4 + off], f[5 + off], f[6 + off], f[7 + off]] := by
  have e : 4 + off + 1 = 5 + off := by omega
  have e' : 5 + off + 1 = 6 + off := by omega
  have e'' : 6 + off + 1 = 7 + off := by omega
  rw [windowBytes_some cfg f off 4 h, frame_drop f (4 + off) (by omega), e, frame_drop f (5 + off) (by omega), e',
    frame_drop f (6 + off) (by omega), e'', frame_drop f (7 + off) (by omega)]
  simp

/-- What an operation on window bytes can do: WindowFault with the operands recorded, or its run on the bytes. -/
theorem withBytes_next {s t : State} {f : Frame} {off : Byte} {n : Nat} {run : List Byte → Outcome}
    (h : withBytes s f off n run = .next t) :
    (off.toNat + n > 8 ∧ t = s.windowFault wfBytes (off ++ BitVec.ofNat 8 n)) ∨
      (off.toNat + n ≤ 8 ∧ ∃ bs, windowBytes s.cfg f off.toNat n = some bs ∧ run bs = .next t) := by
  rcases Nat.lt_or_ge 8 (off.toNat + n) with hlt | hge
  · left; exact ⟨hlt, by simpa [withBytes, windowBytes_none s.cfg f _ _ hlt, eq_comm] using h⟩
  · right; exact ⟨hge, _, windowBytes_some s.cfg f _ _ hge, by simpa [withBytes, windowBytes_some s.cfg f _ _ hge] using h⟩

theorem withBytes_fault (s : State) (f : Frame) (off : Byte) (n : Nat) (run : List Byte → Outcome)
    (h : off.toNat + n > 8) : withBytes s f off n run = .next (s.windowFault wfBytes (off ++ BitVec.ofNat 8 n)) := by
  simp [withBytes, windowBytes_none s.cfg f _ _ h]

theorem withRead_fault (s : State) (f : Frame) (off : Byte) (n : Nat) (run : Nat → Outcome)
    (h : off.toNat + n > 8) : withRead s f off n run = .next (s.windowFault wfBytes (off ++ BitVec.ofNat 8 n)) :=
  withBytes_fault s f off n _ h

theorem withRead_one (s : State) (f : Frame) (off : Byte) (run : Nat → Outcome) (h : off.toNat + 1 ≤ 8) :
    withRead s f off 1 run = run f[4 + off.toNat].toNat := by
  simp [withRead, withBytes, windowBytes_one s.cfg f _ h, bigEndian]

theorem withRead_two (s : State) (f : Frame) (off : Byte) (run : Nat → Outcome) (h : off.toNat + 2 ≤ 8) :
    withRead s f off 2 run = run (f[4 + off.toNat].toNat * 256 + f[5 + off.toNat].toNat) := by
  simp [withRead, withBytes, windowBytes_two s.cfg f _ h, bigEndian]

theorem withRead_four (s : State) (f : Frame) (off : Byte) (run : Nat → Outcome) (h : off.toNat + 4 ≤ 8) :
    withRead s f off 4 run =
      run (f[4 + off.toNat].toNat * 2 ^ 24 + f[5 + off.toNat].toNat * 2 ^ 16 + f[6 + off.toNat].toNat * 2 ^ 8 +
        f[7 + off.toNat].toNat) := by
  have e : bigEndian [f[4 + off.toNat], f[5 + off.toNat], f[6 + off.toNat], f[7 + off.toNat]] =
      f[4 + off.toNat].toNat * 2 ^ 24 + f[5 + off.toNat].toNat * 2 ^ 16 + f[6 + off.toNat].toNat * 2 ^ 8 +
        f[7 + off.toNat].toNat := by
    simp only [bigEndian, List.foldl_cons, List.foldl_nil]
    ring
  simp only [withRead, withBytes, windowBytes_four s.cfg f _ h]
  rw [e]

/-! ### Streams -/

@[simp] theorem linkTurn_block (s : State) : s.linkTurn.block = s.block := by unfold State.linkTurn; split <;> rfl
@[simp] theorem linkTurn_cfg (s : State) : s.linkTurn.cfg = s.cfg := by unfold State.linkTurn; split <;> rfl
@[simp] theorem linkTurn_status (s : State) : s.linkTurn.status = s.status := by unfold State.linkTurn; split <;> rfl
@[simp] theorem linkTurn_res (s : State) : s.linkTurn.res = s.res := by unfold State.linkTurn; split <;> rfl
@[simp] theorem linkTurn_evq (s : State) : s.linkTurn.evq = s.evq := by unfold State.linkTurn; split <;> rfl
@[simp] theorem linkTurn_wire (s : State) : s.linkTurn.wire = s.wire := by unfold State.linkTurn; split <;> rfl
@[simp] theorem linkTurn_txok (s : State) : s.linkTurn.txok = s.txok := by unfold State.linkTurn; split <;> rfl
@[simp] theorem linkTurn_inbox (s : State) : s.linkTurn.inbox = s.inbox := by unfold State.linkTurn; split <;> rfl
@[simp] theorem linkTurn_draws (s : State) : s.linkTurn.draws = s.draws := by unfold State.linkTurn; split <;> rfl
@[simp] theorem linkTurn_row (s : State) (c : CmdCode) : s.linkTurn.row c = s.row c := by simp [State.row]

/-- With an empty script the link's turn does nothing. -/
theorem linkTurn_silent (s : State) (h : s.script = []) : s.linkTurn = s := by simp [State.linkTurn, h]

/-- The link's turn keeps the count of pending bytes. -/
@[simp] theorem linkTurn_pending (s : State) : s.linkTurn.pending = s.pending := by
  unfold State.linkTurn
  split
  · rfl
  · next t rest h => simp [State.pending, h]; omega

theorem poll_empty (s : State) (h : s.rxq = []) : s.poll = none := by simp [State.poll, h]

theorem poll_cons (s : State) (b : Byte) (q : List Byte) (h : s.rxq = b :: q) :
    s.poll = some (b, { s with rxq := q }) := by simp [State.poll, h]

end Sys2Proof.Machine
end

