-- ==== Sys2Proof/Laws/Exec.lean ====
section
/-!
SUPPORT. For each instruction, its meaning in a good state (FAULT = 0) with the guard discharged; a FRAME13 instruction is the receiver on its frame.
-/

namespace Sys2Proof.Machine

section
variable (s : State)

theorem exec_checksum (f : Frame) (h : s.Good) : exec (.checksum f) s =
    (.next (s.answer 104 (natRes (checksum f).toNat))) := guarded_good s _ h

theorem exec_encode (c : CmdCode) (r : Role) (p : Payload) (h : s.Good) : exec (.encode c r p) s =
    (.next (s.answer 104 (frameRes (encodeFrame s.cfg c r p)))) := guarded_good s _ h

theorem exec_decode (f : Frame) (h : s.Good) : exec (.decode f) s =
    (.next (s.answer 80 (decodedRes f))) := guarded_good s _ h

theorem exec_validate (f : Frame) (r : Role) (h : s.Good) : exec (.validate f r) s =
    (.next (s.answer 1 (boolRes (validate s.cfg f r)))) := guarded_good s _ h

theorem exec_getU8 (f : Frame) (off : Byte) (h : s.Good) : exec (.getU8 f off) s =
    (withRead s f off 1 fun v => .next (s.answer 104 (natRes v))) := guarded_good s _ h

theorem exec_getU16 (f : Frame) (off : Byte) (h : s.Good) : exec (.getU16 f off) s =
    (withRead s f off 2 fun v => .next (s.answer 104 (natRes v))) := guarded_good s _ h

theorem exec_getU32 (f : Frame) (off : Byte) (h : s.Good) : exec (.getU32 f off) s =
    (withRead s f off 4 fun v => .next (s.answer 104 (natRes v))) := guarded_good s _ h

theorem exec_getBit (f : Frame) (off bitpos : Byte) (h : s.Good) : exec (.getBit f off bitpos) s =
    (withRead s f off 1 fun v =>
      if bitpos.toNat > 7 then .next (s.windowFault wfBitpos (off ++ bitpos))
      else .next (s.answer 1 (boolRes (byteBit s.cfg (BitVec.ofNat 8 v) bitpos.toNat)))) := guarded_good s _ h

theorem exec_getBitL (f : Frame) (idx : Byte) (h : s.Good) : exec (.getBitL f idx) s =
    (if idx.toNat > 63 then .next (s.windowFault wfLinear (0#8 ++ idx))
     else
      withRead s f (BitVec.ofNat 8 (idx.toNat / 8)) 1 fun v =>
        .next (s.answer 1 (boolRes (byteBit s.cfg (BitVec.ofNat 8 v) (idx.toNat % 8))))) := guarded_good s _ h

theorem exec_decDeci (f : Frame) (off : Byte) (h : s.Good) : exec (.decDeci f off) s =
    (withRead s f off 2 fun v => answerRational s v tenths) := guarded_good s _ h

theorem exec_decMilli (f : Frame) (off : Byte) (h : s.Good) : exec (.decMilli f off) s =
    (withRead s f off 2 fun v => answerRational s v thousandths) := guarded_good s _ h

theorem exec_decCurrent (f : Frame) (off : Byte) (h : s.Good) : exec (.decCurrent f off) s =
    (withRead s f off 2 fun v => answerRational s ((v : Int) - currentZero) tenths) := guarded_good s _ h

theorem exec_decTemp (f : Frame) (off : Byte) (h : s.Good) : exec (.decTemp f off) s =
    (withRead s f off 1 fun v => answerRational s ((v : Int) - tempBias) 1) := guarded_good s _ h

theorem exec_decDuration (f : Frame) (off : Byte) (h : s.Good) : exec (.decDuration f off) s =
    (withRead s f off 1 fun v => answerRational s ((v * secondsPerMinute : Nat) : Int) 1) := guarded_good s _ h

theorem exec_decBits (f : Frame) (off : Byte) (h : s.Good) : exec (.decBits f off) s =
    (withRead s f off 1 fun v => .next (s.answer 8 (natRes v))) := guarded_good s _ h

theorem exec_rxPoll (now : Time) (ok : Bool) (h : s.Good) : exec (.rxPoll now ok) s =
    (match (s.setPins now ok).poll with
     | none => .next ((s.setPins now ok).answer 1 (boolRes false))
     | some (b, s1) => answering (rxByte b s1) fun s2 => s2.answer 1 (boolRes true)) := guarded_good s _ h

theorem exec_drain (now : Time) (ok : Bool) (h : s.Good) : exec (.drain now ok) s =
    (match drainBytes (s.setPins now ok) with
     | .ok (n, s1) => .next (s1.answer 104 (natRes n))
     | .error e => .fault e) := guarded_good s _ h

theorem exec_txFrame (f : Frame) (now : Time) (ok : Bool) (h : s.Good) : exec (.txFrame f now ok) s =
    (let s1 := (s.setPins now ok).emit (.transmit f)
     match drainBytes (s1.write f) with
     | .ok (_, s2) => .next (s2.answer 1 (boolRes s1.writeAnswer))
     | .error e => .fault e) := guarded_good s _ h

theorem exec_rxByte (b : Byte) (now : Time) (ok : Bool) (h : s.Good) : exec (.rxByte b now ok) s =
    (answering (rxByte b (s.setPins now ok)) State.done) := guarded_good s _ h

theorem exec_decTriple (f : Frame) (off : Byte) (h : s.Good) : exec (.decTriple f off) s =
    (withBytes s f off 3 fun bs =>
      .next (s.answer 24 (tripleRes (bs.getD 0 0) (bs.getD 1 0) (bs.getD 2 0)))) := guarded_good s _ h

theorem exec_decScaled16 (f : Frame) (off : Byte) (divisor : BitVec 32) (h : s.Good) : exec (.decScaled16 f off divisor) s =
    (scaled s f off 2 divisor) := guarded_good s _ h

theorem exec_decScaled32 (f : Frame) (off : Byte) (divisor : BitVec 32) (h : s.Good) : exec (.decScaled32 f off divisor) s =
    (scaled s f off 4 divisor) := guarded_good s _ h

theorem exec_prepare (c : CmdCode) (p : Payload) (h : s.Good) : exec (.prepare c p) s =
    (withDesc s c fun _ =>
      .next ((s.setRow c { s.row c with rxcnt := 0, blocked := false }).answer 104
        (frameRes (encodeFrame s.cfg c .host2dev p)))) := guarded_good s _ h

theorem exec_route (f : Frame) (now : Time) (ok : Bool) (h : s.Good) : exec (.route f now ok) s =
    (.next ((s.setPins now ok).routeFrame f).done) := guarded_good s _ h

theorem exec_setValid (c : CmdCode) (now : Time) (h : s.Good) : exec (.setValid c now) s =
    (withDesc s c fun _ => .next ((s.setNow now).setValidRow c).done) := guarded_good s _ h

theorem exec_isReq (c : CmdCode) (h : s.Good) : exec (.isReq c) s =
    (withDesc s c fun fam => .next (s.answer 1 (boolRes (requestable fam (s.row c).itemCount)))) := guarded_good s _ h

theorem exec_isValid (c : CmdCode) (h : s.Good) : exec (.isValid c) s =
    (withDesc s c fun _ => .next (s.answer 1 (boolRes (s.row c).valid))) := guarded_good s _ h

theorem exec_lastValid (c : CmdCode) (h : s.Good) : exec (.lastValid c) s =
    (withDesc s c fun _ => .next (s.answer 104 (natRes (s.row c).vtime.toNat))) := guarded_good s _ h

theorem exec_setCount (c : CmdCode) (count : Byte) (h : s.Good) : exec (.setCount c count) s =
    (withDesc s c fun fam => setItemCount s c count fam) := guarded_good s _ h

theorem exec_process (f : Frame) (now : Time) (ok : Bool) (h : s.Good) : exec (.process f now ok) s =
    (withDesc s (cmdOf f) fun fam =>
      let p := processFrame (s.setPins now ok) fam f
      .next (p.state.answer 1 (boolRes p.accepted))) := guarded_good s _ h

end

/-- A FRAME13 instruction is the receiver on the frame it stands for. -/
theorem exec_frame (i : Instr) (f : Frame) (now : Time) (ok : Bool) (s : State) (hi : frameOf i = some (f, now, ok)) :
    exec i s = receiveFrame f now ok s := by
  cases i <;> simp only [frameOf, Instr.frameFields, Option.map_some, Option.map_none, Option.some.injEq, Prod.mk.injEq,
    reduceCtorEq] at hi <;> obtain ⟨rfl, rfl, rfl⟩ := hi <;> rfl

end Sys2Proof.Machine
end

