-- ==== Sys2Proof/Laws/Sequencer.lean ====
section
/-!
SUPPORT. What PROCESS, ROUTE and SETVALID can do, said once: the four outcomes of PROCESS, the two of ROUTE, and what
neither ever touches.
-/

namespace Sys2Proof.Machine

/-- Two rows written one after the other at one command are the second. -/
@[simp] theorem State.setRow_setRow (s : State) (c : CmdCode) (d d' : Desc) :
    (s.setRow c d).setRow c d' = s.setRow c d' := by
  simp [State.setRow]

/-- Writing a row and emitting commute. -/
theorem State.setRow_emit (s : State) (c : CmdCode) (d : Desc) (e : Event) :
    (s.emit e).setRow c d = (s.setRow c d).emit e := rfl

/-- The counter saturates: the value PROCESS counts to, as a number. -/
theorem sat16_toNat (v : Nat) : (sat16 v).toNat = min v 65535 := by
  simp only [sat16, BitVec.toNat_ofNat]
  omega

/-- Two events emitted are appended in order (R236). -/
theorem State.emit_emit (s : State) (e e' : Event) : (s.emit e).emit e' = { s with evq := s.evq ++ [e, e'] } := by
  simp [State.emit]

/-- `Expected` of Flags is `expectedCount` of the claims. -/
theorem expected_eq (s : State) (c : CmdCode) (fam : Family) :
    expected fam (s.row c).itemCount = expectedCount s c fam := by
  cases fam <;> rfl

/-- `FrameIndex` of Flags is `acceptedIndex` of the claims. -/
theorem frameIndex_eq (fam : Family) (b n : Nat) : frameIndex fam b n = acceptedIndex b n fam := by
  cases fam <;> rfl

/-- `SeqOk` of Flags is `SeqAccepts` of the claims. -/
theorem seqOk_iff (cfg : Configuration) (fam : Family) (b n N : Nat) :
    seqOk cfg fam b n N = true ↔ SeqAccepts cfg b n N fam := by
  cases fam <;> simp [seqOk, SeqAccepts, and_assoc]

/-- The counter PROCESS writes is `countAfter` as 16 bits. -/
theorem count_eq (s : State) (c : CmdCode) :
    sat16 ((s.row c).rxcnt.toNat + 1) = BitVec.ofNat 16 (countAfter s c) := rfl

theorem count_toNat (s : State) (c : CmdCode) : (BitVec.ofNat 16 (countAfter s c)).toNat = countAfter s c := by
  simp only [countAfter, BitVec.toNat_ofNat]
  omega

/-- A frame is rejected by the first of the three tests that fails (R174, R238). -/
theorem rejectReason_cases (cfg : Configuration) (fam : Family) (blocked : Bool) (b n N : Nat) :
    (blocked = true ∧ rejectReason cfg fam blocked b n N = some .blocked) ∨
    (blocked = false ∧ n > N ∧ rejectReason cfg fam blocked b n N = some .excess) ∨
    (blocked = false ∧ n ≤ N ∧ ¬ SeqAccepts cfg b n N fam ∧ rejectReason cfg fam blocked b n N = some .sequence) ∨
    (blocked = false ∧ n ≤ N ∧ SeqAccepts cfg b n N fam ∧ rejectReason cfg fam blocked b n N = none) := by
  have hs := seqOk_iff cfg fam b n N
  cases blocked <;> rcases Nat.lt_or_ge N n with h | h <;>
    by_cases q : seqOk cfg fam b n N = true <;> simp [rejectReason, h, q, ← hs, Nat.not_lt.mpr, Nat.not_le.mpr]

/-- The test that accepts a frame is the one that says it is the next expected frame. -/
theorem rejectReason_none_iff (s : State) (fam : Family) (f : Frame) :
    rejectReason s.cfg fam (s.row f[2]).blocked (seqNumber s f) (countAfter s f[2])
      (expectedCount s f[2] fam) = none ↔ NextExpected s fam f := by
  rcases rejectReason_cases s.cfg fam (s.row f[2]).blocked (seqNumber s f) (countAfter s f[2])
    (expectedCount s f[2] fam) with ⟨h, e⟩ | ⟨h, h', e⟩ | ⟨h, h', q, e⟩ | ⟨h, h', q, e⟩
  · rw [e]; simp [NextExpected, h]
  · rw [e]; simp [NextExpected, h, Nat.not_le.mpr h']
  · rw [e]; simp [NextExpected, h, h', q]
  · rw [e]; simp [NextExpected, h, h', q]

/-- A rejected frame: the counter and one `Reject`, nothing else (R174, R177). -/
theorem processFrame_reject (s : State) (fam : Family) (f : Frame) (why : RejectReason)
    (h : rejectReason s.cfg fam (s.row f[2]).blocked (seqNumber s f) (countAfter s f[2])
      (expectedCount s f[2] fam) = some why) :
    processFrame s fam f =
      ⟨(s.setRow f[2] { s.row f[2] with rxcnt := BitVec.ofNat 16 (countAfter s f[2]) }).emit
        (.reject f[2] why (BitVec.ofNat 16 (countAfter s f[2]))), false, false⟩ := by
  simp only [processFrame, cmdOf, expected_eq, count_eq, count_toNat]
  rw [show (seqByte s.cfg f).toNat = seqNumber s f from rfl, h]

/-- An accepted frame short of the last one (R174, R176). -/
theorem processFrame_accept (s : State) (fam : Family) (f : Frame) (h : NextExpected s fam f)
    (hd : s.decodeOk = true) (hN : countAfter s f[2] ≠ expectedCount s f[2] fam) :
    processFrame s fam f =
      ⟨(s.setRow f[2] { s.row f[2] with rxcnt := BitVec.ofNat 16 (countAfter s f[2]) }).emit
        (.accept f[2] (acceptedIndex (seqNumber s f) (countAfter s f[2]) fam) (payloadOf f) false), true, false⟩ := by
  have e := (rejectReason_none_iff s fam f).mpr h
  simp only [processFrame, cmdOf, expected_eq, count_eq, count_toNat, frameIndex_eq]
  rw [show (seqByte s.cfg f).toNat = seqNumber s f from rfl, e]
  simp [acceptFrame, cmdOf, hd, hN, beq_eq_false_iff_ne.mpr hN]

/-- The last expected frame completes the cycle (R178, R180). -/
theorem processFrame_complete (s : State) (fam : Family) (f : Frame) (h : NextExpected s fam f)
    (hd : s.decodeOk = true) (hN : countAfter s f[2] = expectedCount s f[2] fam) :
    processFrame s fam f =
      ⟨(s.setRow f[2] { s.row f[2] with rxcnt := 0, valid := true, vtime := s.now }).emit
        (.accept f[2] (acceptedIndex (seqNumber s f) (countAfter s f[2]) fam) (payloadOf f) true), true, true⟩ := by
  have e := (rejectReason_none_iff s fam f).mpr h
  simp only [processFrame, cmdOf, expected_eq, count_eq, count_toNat, frameIndex_eq]
  rw [show (seqByte s.cfg f).toNat = seqNumber s f from rfl, e]
  simp [acceptFrame, cmdOf, hd, hN, State.setValidRow, State.setRow_emit]

/-- A decode failure ends the cycle (R179). -/
theorem processFrame_decodeFail (s : State) (fam : Family) (f : Frame) (h : NextExpected s fam f)
    (hd : s.decodeOk = false) :
    processFrame s fam f =
      ⟨((s.setRow f[2] { s.row f[2] with
          rxcnt := BitVec.ofNat 16 (countAfter s f[2]), valid := false, blocked := true }).emit
        (.accept f[2] (acceptedIndex (seqNumber s f) (countAfter s f[2]) fam) (payloadOf f)
          (decide (countAfter s f[2] = expectedCount s f[2] fam)))).emit
        (.decodeFail f[2] (acceptedIndex (seqNumber s f) (countAfter s f[2]) fam)), false, false⟩ := by
  have e := (rejectReason_none_iff s fam f).mpr h
  simp only [processFrame, cmdOf, expected_eq, count_eq, count_toNat, frameIndex_eq]
  rw [show (seqByte s.cfg f).toNat = seqNumber s f from rfl, e]
  simp [acceptFrame, cmdOf, hd, State.setRow_emit]
  rfl

/-- The four things PROCESS can do. -/
theorem processFrame_cases (s : State) (fam : Family) (f : Frame) :
    (∃ why, ¬ NextExpected s fam f ∧ processFrame s fam f =
      ⟨(s.setRow f[2] { s.row f[2] with rxcnt := BitVec.ofNat 16 (countAfter s f[2]) }).emit
        (.reject f[2] why (BitVec.ofNat 16 (countAfter s f[2]))), false, false⟩) ∨
    (NextExpected s fam f ∧ s.decodeOk = true ∧ countAfter s f[2] ≠ expectedCount s f[2] fam ∧
      processFrame s fam f =
        ⟨(s.setRow f[2] { s.row f[2] with rxcnt := BitVec.ofNat 16 (countAfter s f[2]) }).emit
          (.accept f[2] (acceptedIndex (seqNumber s f) (countAfter s f[2]) fam) (payloadOf f) false), true, false⟩) ∨
    (NextExpected s fam f ∧ s.decodeOk = true ∧ countAfter s f[2] = expectedCount s f[2] fam ∧
      processFrame s fam f =
        ⟨(s.setRow f[2] { s.row f[2] with rxcnt := 0, valid := true, vtime := s.now }).emit
          (.accept f[2] (acceptedIndex (seqNumber s f) (countAfter s f[2]) fam) (payloadOf f) true), true, true⟩) ∨
    (NextExpected s fam f ∧ s.decodeOk = false ∧ processFrame s fam f =
      ⟨((s.setRow f[2] { s.row f[2] with
          rxcnt := BitVec.ofNat 16 (countAfter s f[2]), valid := false, blocked := true }).emit
        (.accept f[2] (acceptedIndex (seqNumber s f) (countAfter s f[2]) fam) (payloadOf f)
          (decide (countAfter s f[2] = expectedCount s f[2] fam)))).emit
        (.decodeFail f[2] (acceptedIndex (seqNumber s f) (countAfter s f[2]) fam)), false, false⟩) := by
  by_cases h : NextExpected s fam f
  · right
    cases hd : s.decodeOk
    · exact .inr (.inr ⟨h, rfl, processFrame_decodeFail s fam f h hd⟩)
    · by_cases hN : countAfter s f[2] = expectedCount s f[2] fam
      · exact .inr (.inl ⟨h, rfl, hN, processFrame_complete s fam f h hd hN⟩)
      · exact .inl ⟨h, rfl, hN, processFrame_accept s fam f h hd hN⟩
  · left
    rcases hr : rejectReason s.cfg fam (s.row f[2]).blocked (seqNumber s f) (countAfter s f[2])
        (expectedCount s f[2] fam) with _ | why
    · exact absurd ((rejectReason_none_iff s fam f).mp hr) h
    · exact ⟨why, h, processFrame_reject s fam f why hr⟩

/-- PROCESS writes one row and appends events; nothing else (R177). -/
theorem processFrame_frame (s : State) (fam : Family) (f : Frame) :
    ∃ d events, (processFrame s fam f).state =
      { s with block := s.block.setRow f[2] d, evq := s.evq ++ events } := by
  rcases processFrame_cases s fam f with ⟨why, -, e⟩ | ⟨-, -, -, e⟩ | ⟨-, -, -, e⟩ | ⟨-, -, e⟩ <;> rw [e]
  · exact ⟨_, _, rfl⟩
  · exact ⟨_, _, rfl⟩
  · exact ⟨_, _, rfl⟩
  · exact ⟨_, _, State.emit_emit _ _ _⟩

/-- PROCESS yields `completed` exactly when it performed SETVALID (R174). -/
theorem processFrame_completed_iff (s : State) (fam : Family) (f : Frame) :
    (processFrame s fam f).completed = true ↔
      NextExpected s fam f ∧ s.decodeOk = true ∧ countAfter s f[2] = expectedCount s f[2] fam := by
  rcases processFrame_cases s fam f with ⟨why, h, e⟩ | ⟨h, hd, hN, e⟩ | ⟨h, hd, hN, e⟩ | ⟨h, hd, e⟩ <;>
    rw [e] <;> simp_all

/-- ROUTE without a descriptor logs and discards (R173). -/
theorem routeFrame_absent (s : State) (f : Frame) (h : s.desc f[2] = none) :
    s.routeFrame f = s.emit (.unrouted f[2] f) := by
  simp [State.routeFrame, cmdOf, h]

/-- ROUTE of a frame that does not complete its cycle is PROCESS (R173). -/
theorem routeFrame_incomplete (s : State) (f : Frame) (fam : Family) (h : s.desc f[2] = some fam)
    (hc : (processFrame s fam f).completed = false) : s.routeFrame f = (processFrame s fam f).state := by
  simp [State.routeFrame, cmdOf, h, hc]

/-- ROUTE of a frame that completes its cycle emits `Complete` with the time just stamped (R173, R237). -/
theorem routeFrame_complete (s : State) (f : Frame) (fam : Family) (h : s.desc f[2] = some fam)
    (hc : (processFrame s fam f).completed = true) :
    s.routeFrame f = (processFrame s fam f).state.emit (.complete f[2] s.now) := by
  obtain ⟨hn, hd, hN⟩ := (processFrame_completed_iff s fam f).mp hc
  simp only [State.routeFrame, cmdOf, h, hc, if_true]
  rw [processFrame_complete s fam f hn hd hN]
  simp

/-- The events a ROUTE emits. -/
theorem routeFrame_events (s : State) (f : Frame) :
    ∃ new, (s.routeFrame f).evq = s.evq ++ new ∧
      ((s.desc f[2] = none ∧ new = [.unrouted f[2] f]) ∨ (∃ why n, new = [.reject f[2] why n]) ∨
        (∃ k p last, new = [.accept f[2] k p last, .decodeFail f[2] k]) ∨ (∃ k p, new = [.accept f[2] k p false]) ∨
        (∃ k p, new = [.accept f[2] k p true, .complete f[2] s.now])) := by
  cases h : s.desc f[2] with
  | none => exact ⟨_, by rw [routeFrame_absent s f h]; rfl, .inl ⟨rfl, rfl⟩⟩
  | some fam =>
    cases hc : (processFrame s fam f).completed with
    | true =>
      obtain ⟨hn, hd, hN⟩ := (processFrame_completed_iff s fam f).mp hc
      rw [routeFrame_complete s f fam h hc, processFrame_complete s fam f hn hd hN, State.emit_emit]
      exact ⟨_, rfl, .inr (.inr (.inr (.inr ⟨_, _, rfl⟩)))⟩
    | false =>
      rw [routeFrame_incomplete s f fam h hc]
      rcases processFrame_cases s fam f with ⟨why, -, e⟩ | ⟨-, -, -, e⟩ | ⟨-, -, -, e⟩ | ⟨-, -, e⟩
      · rw [e]; exact ⟨_, rfl, .inr (.inl ⟨_, _, rfl⟩)⟩
      · rw [e]; exact ⟨_, rfl, .inr (.inr (.inr (.inl ⟨_, _, rfl⟩)))⟩
      · rw [e] at hc; cases hc
      · rw [e, State.emit_emit]
        exact ⟨_, rfl, .inr (.inr (.inl ⟨_, _, _, rfl⟩))⟩

/-- ROUTE writes at most one row and appends events; nothing else (R171, R173). -/
theorem routeFrame_frame (s : State) (f : Frame) :
    ∃ d events, s.routeFrame f = { s with block := s.block.setRow f[2] d, evq := s.evq ++ events } := by
  cases h : s.desc f[2] with
  | none => exact ⟨s.row f[2], _, by rw [routeFrame_absent s f h]; simp [State.emit, State.row]; rfl⟩
  | some fam =>
    obtain ⟨d, evs, e⟩ := processFrame_frame s fam f
    cases hc : (processFrame s fam f).completed with
    | false => exact ⟨d, evs, by rw [routeFrame_incomplete s f fam h hc, e]⟩
    | true => exact ⟨d, evs ++ [.complete f[2] s.now], by
        rw [routeFrame_complete s f fam h hc, e]; simp [State.emit]⟩

/-- ROUTE leaves every row but its frame's alone (R186 item 1). -/
theorem routeFrame_row_ne (s : State) (f : Frame) (c : CmdCode) (h : c ≠ f[2]) : (s.routeFrame f).row c = s.row c := by
  obtain ⟨d, evs, e⟩ := routeFrame_frame s f
  rw [e]
  exact Block.row_setRow_ne s.block f[2] d c h

end Sys2Proof.Machine
end

