-- ==== Sys2Proof/Laws/Parser.lean ====
section
/-!
SUPPORT. What RXBYTE, the receiver and the loop of DRAIN can do, said once: the shape of one byte step, the position
invariant, what the byte step reads, and the induction over a run of byte steps.
-/

namespace Sys2Proof.Machine

/-! ### One byte -/

/-- The position as a number (R23). -/
theorem rxidx_ofNat (i : Nat) (h : i < 16) : (BitVec.ofNat 4 i).toNat = i := by
  simp only [BitVec.toNat_ofNat]; omega

/-- In a position that R24 allows no byte is stuck: RXIDX is at most 12. -/
theorem parserOk_index {b : Block} (h : b.ParserOk) : b.rxidx.toNat < 13 := by
  unfold Block.ParserOk at h
  split at h
  · simp [h]
  · omega
  · omega

/-- `s` with the parser's registers written. -/
abbrev State.withParser (s : State) (buf : Vector Byte 13) (p : PState) (i : BitVec 4) : State :=
  { s with block := { s.block with rxbuf := buf, pstate := p, rxidx := i } }

/-- A store inside RXBUF (R69). -/
theorem setIfInBounds_eq_set (v : Vector Byte 13) (i : Nat) (b : Byte) (h : i < 13) :
    v.setIfInBounds i b = v.set i b := by
  refine Vector.ext fun j hj => ?_
  rw [Vector.getElem_set, Vector.getElem_setIfInBounds]

theorem rxByte_wfs_start (s : State) (h : s.block.pstate = .wfs) :
    rxByte s.cfg.startByte s = .ok (s.withParser (s.block.rxbuf.set 0 s.cfg.startByte) .hdr 1) := by
  rw [← setIfInBounds_eq_set _ _ _ (by omega)]
  simp [rxByte, h, rxByteWfs, State.storeByte, State.setPc]

theorem rxByte_wfs_other (b : Byte) (s : State) (h : s.block.pstate = .wfs) (hb : b ≠ s.cfg.startByte) :
    rxByte b s = .ok s := by
  simp [rxByte, h, rxByteWfs, hb]

section
variable (b : Byte) (s : State)

/-- RXBYTE in the header (R142), as one state update. -/
theorem rxByte_hdr (h : s.block.pstate = .hdr) (hi : s.block.rxidx.toNat < 13) :
    rxByte b s = .ok (
      if s.block.rxidx.toNat + 1 = s.cfg.hdrCheck.index ∧
          addrInRange s.cfg (s.block.rxbuf.set s.block.rxidx.toNat b)[1] = false then
        s.withParser (s.block.rxbuf.set s.block.rxidx.toNat b) .wfs 0
      else if s.block.rxidx.toNat + 1 = 4 then s.withParser (s.block.rxbuf.set s.block.rxidx.toNat b) .cnt 4
      else s.withParser (s.block.rxbuf.set s.block.rxidx.toNat b) .hdr (BitVec.ofNat 4 (s.block.rxidx.toNat + 1))) := by
  simp only [rxByte, h, cfg_frameSize, hi, if_true, rxByteHdr, cfg_headerSize, State.setPc, State.storeByte,
    setIfInBounds_eq_set _ _ _ hi]

/-- The header's address test fails: back to (WFS, 0) (R142). -/
theorem rxByte_hdr_abort (h : s.block.pstate = .hdr) (hi : s.block.rxidx.toNat < 13)
    (hc : s.block.rxidx.toNat + 1 = s.cfg.hdrCheck.index)
    (ha : addrInRange s.cfg (s.block.rxbuf.set s.block.rxidx.toNat b)[1] = false) :
    rxByte b s = .ok (s.withParser (s.block.rxbuf.set s.block.rxidx.toNat b) .wfs 0) := by
  rw [rxByte_hdr b s h hi, if_pos ⟨hc, ha⟩]

/-- The fourth byte ends the header (R142). -/
theorem rxByte_hdr_end (h : s.block.pstate = .hdr) (hi : s.block.rxidx.toNat = 3)
    (ha : ¬ (4 = s.cfg.hdrCheck.index ∧ addrInRange s.cfg (s.block.rxbuf.set 3 b)[1] = false)) :
    rxByte b s = .ok (s.withParser (s.block.rxbuf.set 3 b) .cnt 4) := by
  have h13 : s.block.rxidx.toNat < 13 := by omega
  rw [rxByte_hdr b s h h13]
  simp only [hi] at ha ⊢
  rw [if_neg ha, if_pos trivial]

/-- Short of four bytes RXIDX advances (R142). -/
theorem rxByte_hdr_advance (h : s.block.pstate = .hdr) (hi : s.block.rxidx.toNat < 13)
    (ha : ¬ (s.block.rxidx.toNat + 1 = s.cfg.hdrCheck.index ∧
      addrInRange s.cfg (s.block.rxbuf.set s.block.rxidx.toNat b)[1] = false))
    (h4 : s.block.rxidx.toNat + 1 ≠ 4) :
    rxByte b s = .ok (s.withParser (s.block.rxbuf.set s.block.rxidx.toNat b) .hdr
      (BitVec.ofNat 4 (s.block.rxidx.toNat + 1))) := by
  rw [rxByte_hdr b s h hi, if_neg ha, if_neg h4]

/-- RXBYTE in the content short of the last byte (R143). -/
theorem rxByte_cnt_inside (h : s.block.pstate = .cnt) (hi : s.block.rxidx.toNat < 12) :
    rxByte b s = .ok (s.withParser (s.block.rxbuf.set s.block.rxidx.toNat b) .cnt
      (BitVec.ofNat 4 (s.block.rxidx.toNat + 1))) := by
  have h13 : s.block.rxidx.toNat < 13 := by omega
  have h' : s.block.rxidx.toNat + 1 < 13 := by omega
  simp only [rxByte, h, cfg_frameSize, h13, if_true, rxByteCnt, State.storeByte, State.setPc, h',
    setIfInBounds_eq_set _ _ _ h13]

/-- RXBYTE on the last byte of the window (R143): the parser returns to (WFS, 0), and the frame is routed or tagged
`Error`. -/
theorem rxByte_cnt_last (h : s.block.pstate = .cnt) (hi : s.block.rxidx.toNat = 12) :
    rxByte b s = .ok (
      if validate s.cfg (s.block.rxbuf.set 12 b) .dev2host = true then
        ((s.withParser (s.block.rxbuf.set 12 b) .wfs 0).emit (.receive (s.block.rxbuf.set 12 b))).routeFrame
          (s.block.rxbuf.set 12 b)
      else (s.withParser (s.block.rxbuf.set 12 b) .wfs 0).emit (.error (s.block.rxbuf.set 12 b))) := by
  simp only [rxByte, h, hi, cfg_frameSize, rxByteCnt, State.storeByte, frameComplete, State.setPc,
    setIfInBounds_eq_set _ 12 b (by omega)]
  simp

/-- The last byte of a valid frame (R143). -/
theorem rxByte_cnt_valid (h : s.block.pstate = .cnt) (hi : s.block.rxidx.toNat = 12)
    (hv : validate s.cfg (s.block.rxbuf.set 12 b) .dev2host = true) :
    rxByte b s = .ok
      (((s.withParser (s.block.rxbuf.set 12 b) .wfs 0).emit (.receive (s.block.rxbuf.set 12 b))).routeFrame
        (s.block.rxbuf.set 12 b)) := by
  rw [rxByte_cnt_last b s h hi, if_pos hv]

/-- The last byte of an invalid frame (R143). -/
theorem rxByte_cnt_error (h : s.block.pstate = .cnt) (hi : s.block.rxidx.toNat = 12)
    (hv : validate s.cfg (s.block.rxbuf.set 12 b) .dev2host = false) :
    rxByte b s = .ok ((s.withParser (s.block.rxbuf.set 12 b) .wfs 0).emit (.error (s.block.rxbuf.set 12 b))) := by
  rw [rxByte_cnt_last b s h hi, if_neg (by simp [hv])]

end

/-- The three things a byte step can do: write the parser's registers and nothing else, complete an invalid frame, or
complete a valid one and route it. -/
theorem rxByte_cases {b : Byte} {s t : State} (h : rxByte b s = .ok t) :
    (∃ buf p i, t = s.withParser buf p i) ∨
    (∃ f : Frame, validate s.cfg f .dev2host = false ∧ t = (s.withParser f .wfs 0).emit (.error f)) ∨
    (∃ f : Frame, validate s.cfg f .dev2host = true ∧
      t = ((s.withParser f .wfs 0).emit (.receive f)).routeFrame f) := by
  unfold rxByte at h
  split at h
  · left
    cases h
    unfold rxByteWfs
    split
    · exact ⟨_, _, _, rfl⟩
    · exact ⟨s.block.rxbuf, s.block.pstate, s.block.rxidx, rfl⟩
  · split at h
    · left
      cases h
      unfold rxByteHdr
      dsimp only
      split
      · exact ⟨_, _, _, rfl⟩
      · split <;> exact ⟨_, _, _, rfl⟩
    · cases h
  · split at h
    · cases h
      unfold rxByteCnt
      dsimp only
      split
      · exact .inl ⟨_, _, _, rfl⟩
      · right
        unfold frameComplete
        dsimp only
        split
        · next hv => exact .inr ⟨_, hv, rfl⟩
        · next hv => exact .inl ⟨_, by simpa using hv, rfl⟩
    · cases h

/-- A byte step writes the block's registers and EVQ, and nothing else. -/
theorem rxByte_frame {b : Byte} {s t : State} (h : rxByte b s = .ok t) :
    ∃ blk events, t = { s with block := blk, evq := s.evq ++ events } := by
  rcases rxByte_cases h with ⟨buf, p, i, rfl⟩ | ⟨f, -, rfl⟩ | ⟨f, -, rfl⟩
  · exact ⟨{ s.block with rxbuf := buf, pstate := p, rxidx := i }, [], by simp⟩
  · exact ⟨_, _, rfl⟩
  · obtain ⟨d, evs, e⟩ := routeFrame_frame ((s.withParser f .wfs 0).emit (.receive f)) f
    rw [e]
    refine ⟨{ s.block with rxbuf := f, pstate := .wfs, rxidx := 0 }.setRow f[2] d, .receive f :: evs, ?_⟩
    simp only [State.emit, List.append_assoc, List.cons_append, List.nil_append]

/-- A byte step keeps the fault registers. -/
theorem rxByte_faultRegs {b : Byte} {s t : State} (h : rxByte b s = .ok t) :
    t.block.fault = s.block.fault ∧ t.block.faultcode = s.block.faultcode ∧
      t.block.faultinfo = s.block.faultinfo := by
  rcases rxByte_cases h with ⟨buf, p, i, rfl⟩ | ⟨f, -, rfl⟩ | ⟨f, -, rfl⟩
  · exact ⟨rfl, rfl, rfl⟩
  · exact ⟨rfl, rfl, rfl⟩
  · obtain ⟨d, evs, e⟩ := routeFrame_frame ((s.withParser f .wfs 0).emit (.receive f)) f
    rw [e]
    exact ⟨rfl, rfl, rfl⟩

/-- From a position of R24 a byte step answers. -/
theorem rxByte_total (b : Byte) (s : State) (h : s.block.rxidx.toNat < 13) : ∃ t, rxByte b s = .ok t := by
  unfold rxByte
  split
  · exact ⟨_, rfl⟩
  · simp [h]
  · simp [h]

/-- A byte step keeps the position invariant of R24 and the partial frame's (R141, R142). -/
theorem rxByte_parserOk {b : Byte} {s t : State} (h : rxByte b s = .ok t) (hp : s.block.ParserOk) :
    t.block.ParserOk := by
  have hi := parserOk_index hp
  cases hs : s.block.pstate with
  | wfs =>
    by_cases hb : b = s.cfg.startByte
    · subst hb
      rw [rxByte_wfs_start s hs] at h
      cases h
      simp [Block.ParserOk]
    · rw [rxByte_wfs_other b s hs hb] at h
      cases h
      exact hp
  | hdr =>
    rw [rxByte_hdr b s hs hi] at h
    cases h
    simp only [Block.ParserOk, hs] at hp
    split
    · rfl
    · split
      · simp [Block.ParserOk]
      · simp only [Block.ParserOk]
        rw [rxidx_ofNat _ (by omega)]
        omega
  | cnt =>
    simp only [Block.ParserOk, hs] at hp
    rcases Nat.lt_or_ge s.block.rxidx.toNat 12 with hlt | hge
    · rw [rxByte_cnt_inside b s hs hlt] at h
      cases h
      simp only [Block.ParserOk]
      rw [rxidx_ofNat _ (by omega)]
      omega
    · rw [rxByte_cnt_last b s hs (by omega)] at h
      cases h
      split
      · obtain ⟨d, evs, e⟩ := routeFrame_frame ((s.withParser (s.block.rxbuf.set 12 b) .wfs 0).emit
          (.receive (s.block.rxbuf.set 12 b))) (s.block.rxbuf.set 12 b)
        rw [e]
        rfl
      · rfl

/-! ### What a byte step reads -/

/-- Two states that a byte step cannot tell apart: the block, the configuration, EVQ and the pins agree. -/
structure SameForReceive (s u : State) : Prop where
  block : u.block = s.block
  cfg : u.cfg = s.cfg
  evq : u.evq = s.evq
  now : u.now = s.now
  decodeOk : u.decodeOk = s.decodeOk

/-- `u` with the fields that a byte step neither reads nor writes taken from `o`. -/
def State.withOutside (u o : State) : State :=
  { u with
    status := o.status
    res := o.res
    rxq := o.rxq
    wire := o.wire
    txok := o.txok
    script := o.script
    inbox := o.inbox
    draws := o.draws }

theorem SameForReceive.eq {s u : State} (h : SameForReceive s u) : u = s.withOutside u := by
  obtain ⟨h1, h2, h3, h4, h5⟩ := h
  simp [State.withOutside, ← h1, ← h2, ← h3, ← h4, ← h5]

/-- `t`'s block and events placed in `u`. -/
abbrev State.take (u t : State) : State := { u with block := t.block, evq := t.evq }

theorem acceptFrame_withOutside (s o : State) (f : Frame) (k n N : Nat) :
    acceptFrame (s.withOutside o) f k n N =
      { acceptFrame s f k n N with state := (acceptFrame s f k n N).state.withOutside o } := by
  have hd : (s.withOutside o).decodeOk = s.decodeOk := rfl
  unfold acceptFrame
  dsimp only
  rw [hd]
  by_cases h : s.decodeOk = true
  · by_cases hN : n = N
    · simp only [if_pos h, if_pos hN]
      rfl
    · simp only [if_pos h, if_neg hN]
      rfl
  · rw [if_neg h, if_neg h]
    rfl

theorem processFrame_withOutside (s o : State) (fam : Family) (f : Frame) :
    processFrame (s.withOutside o) fam f =
      { processFrame s fam f with state := (processFrame s fam f).state.withOutside o } := by
  have hr : (s.withOutside o).row = s.row := rfl
  have hc : (s.withOutside o).cfg = s.cfg := rfl
  unfold processFrame
  dsimp only
  rw [hr, hc]
  split
  · rfl
  · exact acceptFrame_withOutside (s.setRow (cmdOf f)
      { s.row (cmdOf f) with rxcnt := sat16 ((s.row (cmdOf f)).rxcnt.toNat + 1) }) o f _ _ _

theorem routeFrame_withOutside (s o : State) (f : Frame) :
    (s.withOutside o).routeFrame f = (s.routeFrame f).withOutside o := by
  unfold State.routeFrame
  have hd : (s.withOutside o).desc = s.desc := rfl
  rw [hd]
  split
  · rfl
  · next fam _ =>
    dsimp only
    rw [processFrame_withOutside s o fam f]
    dsimp only
    by_cases hc : (processFrame s fam f).completed = true
    · rw [if_pos hc, if_pos hc]; rfl
    · rw [if_neg hc, if_neg hc]

theorem rxByte_withOutside (s o : State) (b : Byte) :
    rxByte b (s.withOutside o) = (rxByte b s).map fun t => t.withOutside o := by
  have hb : (s.withOutside o).block = s.block := rfl
  have hcfg : (s.withOutside o).cfg = s.cfg := rfl
  unfold rxByte
  rw [hb, hcfg]
  split
  · unfold rxByteWfs
    rw [hcfg]
    split <;> rfl
  · split
    · simp only [Except.map]
      congr 1
      unfold rxByteHdr
      dsimp only
      rw [hb]
      have e : (s.withOutside o).storeByte s.block.rxidx.toNat b =
        (s.storeByte s.block.rxidx.toNat b).withOutside o := rfl
      have e' : ((s.storeByte s.block.rxidx.toNat b).withOutside o).block =
        (s.storeByte s.block.rxidx.toNat b).block := rfl
      have e'' : (s.withOutside o).cfg = s.cfg := rfl
      rw [e, e', e'']
      by_cases h1 : s.block.rxidx.toNat + 1 = s.cfg.hdrCheck.index ∧
          addrInRange s.cfg (s.storeByte s.block.rxidx.toNat b).block.rxbuf[1] = false
      · rw [if_pos h1, if_pos h1]; rfl
      · rw [if_neg h1, if_neg h1]
        by_cases h2 : s.block.rxidx.toNat + 1 = s.cfg.headerSize.val
        · rw [if_pos h2, if_pos h2]; rfl
        · rw [if_neg h2, if_neg h2]; rfl
    · rfl
  · split
    · simp only [Except.map]
      congr 1
      unfold rxByteCnt
      dsimp only
      rw [hb, hcfg]
      by_cases h1 : s.block.rxidx.toNat + 1 < s.cfg.frameSize.val
      · rw [if_pos h1, if_pos h1]; rfl
      · rw [if_neg h1, if_neg h1]
        unfold frameComplete
        dsimp only
        have e : (s.withOutside o).storeByte s.block.rxidx.toNat b =
          (s.storeByte s.block.rxidx.toNat b).withOutside o := rfl
        have e' : ((s.storeByte s.block.rxidx.toNat b).withOutside o).block =
          (s.storeByte s.block.rxidx.toNat b).block := rfl
        have e'' : ((s.storeByte s.block.rxidx.toNat b).withOutside o).cfg =
          (s.storeByte s.block.rxidx.toNat b).cfg := rfl
        rw [e, e', e'']
        by_cases hv : validate (s.storeByte s.block.rxidx.toNat b).cfg
            (s.storeByte s.block.rxidx.toNat b).block.rxbuf .dev2host = true
        · rw [if_pos hv, if_pos hv]
          exact routeFrame_withOutside (((s.storeByte s.block.rxidx.toNat b).setPc .wfs 0).emit
            (.receive (s.storeByte s.block.rxidx.toNat b).block.rxbuf)) o _
        · rw [if_neg hv, if_neg hv]; rfl
    · rfl

/-- A byte step on a state that agrees in what it reads gives the same block and events (R140). -/
theorem rxByte_congr {s u : State} (h : SameForReceive s u) (b : Byte) :
    rxByte b u = (rxByte b s).map u.take := by
  have e := rxByte_withOutside s u b
  rw [← h.eq] at e
  rw [e]
  cases hb : rxByte b s with
  | error x => rfl
  | ok t =>
    obtain ⟨blk, evs, rfl⟩ := rxByte_frame hb
    simp [Except.map, State.withOutside, State.take, ← h.cfg, ← h.now, ← h.decodeOk]

/-! ### Runs of byte steps -/

@[simp] theorem receiveBytes_nil (s : State) : receiveBytes [] s = .ok s := rfl

theorem receiveBytes_cons_ok {b : Byte} {bs : List Byte} {s s' : State} (h : rxByte b s = .ok s') :
    receiveBytes (b :: bs) s = receiveBytes bs s' := by
  simp [receiveBytes, h]

theorem receiveBytes_append (as bs : List Byte) {s t : State} (h : receiveBytes as s = .ok t) :
    receiveBytes (as ++ bs) s = receiveBytes bs t := by
  induction as generalizing s with
  | nil => cases h; rfl
  | cons a as ih =>
    cases ha : rxByte a s with
    | error e => simp [receiveBytes, ha] at h
    | ok s' =>
      rw [receiveBytes_cons_ok ha] at h
      rw [List.cons_append, receiveBytes_cons_ok ha, ih h]

/-- A relation between states that every byte step respects is respected by a run of byte steps. -/
theorem receiveBytes_induct (R : State → State → Prop) (hrefl : ∀ s, R s s)
    (htrans : ∀ s t u, R s t → R t u → R s u) (hbyte : ∀ b s t, rxByte b s = .ok t → R s t) :
    ∀ (bs : List Byte) (s t : State), receiveBytes bs s = .ok t → R s t := by
  intro bs
  induction bs with
  | nil => intro s t h; cases h; exact hrefl s
  | cons b bs ih =>
    intro s t h
    cases hb : rxByte b s with
    | error e => simp [receiveBytes, hb] at h
    | ok s' =>
      rw [receiveBytes_cons_ok hb] at h
      exact htrans _ _ _ (hbyte _ _ _ hb) (ih _ _ h)

/-- A run of byte steps writes the block's registers and EVQ, and nothing else. -/
theorem receiveBytes_frame {bs : List Byte} {s t : State} (h : receiveBytes bs s = .ok t) :
    ∃ blk events, t = { s with block := blk, evq := s.evq ++ events } := by
  refine receiveBytes_induct (fun a b => ∃ blk events, b = { a with block := blk, evq := a.evq ++ events })
    (fun s => ⟨s.block, [], by simp⟩) ?_ (fun b s t h => rxByte_frame h) bs s t h
  rintro a _ _ ⟨_, _, rfl⟩ ⟨_, _, rfl⟩
  exact ⟨_, _, by rw [List.append_assoc]⟩

/-- A relation that byte steps, polls and the link's turns respect is respected by a DRAIN. -/
theorem drainLoop_induct (R : State → State → Prop) (hrefl : ∀ s, R s s)
    (htrans : ∀ s t u, R s t → R t u → R s u) (hbyte : ∀ b s t, rxByte b s = .ok t → R s t)
    (hpoll : ∀ (s : State) (q : List Byte), R s { s with rxq := q }) (hlink : ∀ s, R s s.linkTurn) :
    ∀ (fuel n m : Nat) (s t : State), drainLoop fuel n s = .ok (m, t) → R s t := by
  intro fuel
  induction fuel with
  | zero => intro n m s t h; cases h; exact hrefl s
  | succ fuel ih =>
    intro n m s t h
    unfold drainLoop at h
    split at h
    · cases h; exact hrefl s
    · next b s1 hpo =>
      have h1 : R s s1 := by
        unfold State.poll at hpo
        split at hpo
        · cases hpo
        · cases hpo; exact hpoll s _
      split at h
      · next s2 hs2 => exact htrans _ _ _ (htrans _ _ _ h1 (hbyte _ _ _ hs2)) (htrans _ _ _ (hlink s2) (ih _ _ _ _ h))
      · cases h

/-- From a position of R24 a run of byte steps answers and keeps the position invariant. -/
theorem receiveBytes_total (bs : List Byte) (s : State) (h : s.block.ParserOk) :
    ∃ t, receiveBytes bs s = .ok t ∧ t.block.ParserOk := by
  induction bs generalizing s with
  | nil => exact ⟨s, rfl, h⟩
  | cons b bs ih =>
    obtain ⟨s', hs'⟩ := rxByte_total b s (parserOk_index h)
    rw [receiveBytes_cons_ok hs']
    exact ih s' (rxByte_parserOk hs' h)

/-- From a position of R24 the loop of DRAIN answers and keeps the position invariant. -/
theorem drainLoop_total (fuel n : Nat) (s : State) (h : s.block.ParserOk) :
    ∃ m t, drainLoop fuel n s = .ok (m, t) ∧ t.block.ParserOk := by
  induction fuel generalizing n s with
  | zero => exact ⟨n, s, rfl, h⟩
  | succ fuel ih =>
    unfold drainLoop
    cases hq : s.rxq with
    | nil => rw [poll_empty s hq]; exact ⟨n, s, rfl, h⟩
    | cons b q =>
      rw [poll_cons s b q hq]
      obtain ⟨s', hs'⟩ := rxByte_total b { s with rxq := q } (parserOk_index h)
      dsimp only
      rw [hs']
      exact ih _ _ (by simpa using rxByte_parserOk hs' h)

/-- A run of byte steps on a state that agrees in what they read gives the same block and events (R140). -/
theorem receiveBytes_congr (bs : List Byte) {s u : State} (h : SameForReceive s u) :
    receiveBytes bs u = (receiveBytes bs s).map u.take := by
  induction bs generalizing s u with
  | nil => simp [Except.map, State.take, ← h.block, ← h.evq]
  | cons b bs ih =>
    have e := rxByte_congr h b
    cases hb : rxByte b s with
    | error x => simp [receiveBytes, hb, e, Except.map]
    | ok t =>
      rw [hb] at e
      rw [receiveBytes_cons_ok hb, receiveBytes_cons_ok e]
      obtain ⟨blk, evs, ht⟩ := rxByte_frame hb
      rw [ih (s := t) (u := u.take t) ⟨rfl, by simp [ht, h.cfg], rfl, by simp [ht, h.now], by simp [ht, h.decodeOk]⟩]

/-- With a silent link and enough turns the loop of DRAIN receives the bytes of RXQ in order (R147). -/
theorem drainLoop_silent (fuel n : Nat) (s : State) (hs : s.script = []) (hf : s.rxq.length < fuel) :
    drainLoop fuel n s =
      (receiveBytes s.rxq { s with rxq := [] }).map fun t => (n + s.rxq.length, t) := by
  induction fuel generalizing n s with
  | zero => omega
  | succ fuel ih =>
    unfold drainLoop
    cases hq : s.rxq with
    | nil =>
      rw [poll_empty s hq]
      have e : ({ s with rxq := [] } : State) = s := by rw [← hq]
      rw [receiveBytes_nil, e]
      rfl
    | cons b q =>
      rw [poll_cons s b q hq]
      dsimp only
      have e := rxByte_congr (s := { s with rxq := q }) (u := { s with rxq := [] }) ⟨rfl, rfl, rfl, rfl, rfl⟩ b
      cases hb : rxByte b { s with rxq := q } with
      | error x => rw [hb] at e; simp [receiveBytes, e, Except.map]
      | ok t =>
        rw [hb] at e
        obtain ⟨blk, evs, ht⟩ := rxByte_frame hb
        have htq : t.rxq = q := by rw [ht]
        have hts : t.script = [] := by rw [ht]; exact hs
        have hl : q.length < fuel := by rw [hq] at hf; simpa using hf
        dsimp only
        rw [linkTurn_silent t hts, ih (n + 1) t hts (by rw [htq]; exact hl), receiveBytes_cons_ok e, htq]
        have e2 : ({ s with rxq := [] } : State).take t = { t with rxq := [] } := by rw [ht]
        rw [e2]
        congr 1
        funext x
        simp [Nat.add_assoc, Nat.add_comm 1]

/-- DRAIN with a silent link (R147). -/
theorem drainBytes_silent (s : State) (hs : s.script = []) :
    drainBytes s = (receiveBytes s.rxq { s with rxq := [] }).map fun t => (s.rxq.length, t) := by
  rw [drainBytes, drainLoop_silent _ _ s hs (by simp [State.pending, hs])]
  simp

/-- The first byte of a stream is taken before any turn, the others after one more (R147). -/
theorem rxBytesOf_cons (b : Byte) (bs : List Byte) (x : LinkTick) (rest : List LinkTick) (now : Time) (ok : Bool) :
    rxBytesOf (b :: bs) (x :: rest) now ok =
      .rxByte b now ok :: rxBytesOf bs rest (x.now.getD now) (x.decodeOk.getD ok) := by
  simp [rxBytesOf, List.mapIdx_cons, nowAfter, okAfter]

/-- With a silent link every byte is taken with the same levels. -/
theorem rxBytesOf_silent (bs : List Byte) (now : Time) (ok : Bool) :
    rxBytesOf bs [] now ok = bs.map fun b => .rxByte b now ok := by
  simp [rxBytesOf, nowAfter, okAfter, List.mapIdx_eq_iff]

/-- What the loop of DRAIN can do, with enough turns (R147): RXBYTE on every byte of the stream in order, each with the levels of
its own moment, from any state that agrees in what RXBYTE reads; RXQ is empty at the end and `k` turns of the script are used up. -/
theorem drainLoop_run (fuel n : Nat) (s u : State) (hp : s.block.ParserOk) (hg : s.Good) (hf : s.pending < fuel)
    (hb : u.block = s.block) (hc : u.cfg = s.cfg) (he : u.evq = s.evq) :
    ∃ t t' k, drainLoop fuel n s = .ok (n + (s.rxq ++ appended (s.script.take k)).length, t) ∧
      k = min (s.rxq ++ appended (s.script.take k)).length s.script.length ∧
      (∀ j, j < k → j < (s.rxq ++ appended (s.script.take j)).length) ∧
      t.block.ParserOk ∧ t.Good ∧
      runAll (rxBytesOf (s.rxq ++ appended (s.script.take k)) s.script s.now s.decodeOk) u = .next t' ∧
      t' = { u with block := t.block, evq := t.evq, now := t'.now, decodeOk := t'.decodeOk, status := t'.status,
                    res := t'.res, draws := t'.draws } ∧
      t = { s with block := t.block, evq := t.evq, rxq := [], script := s.script.drop k,
                   now := nowAfter s.now (s.script.take k), decodeOk := okAfter s.decodeOk (s.script.take k) } := by
  induction fuel generalizing n s u with
  | zero => omega
  | succ fuel ih =>
    unfold drainLoop
    cases hq : s.rxq with
    | nil =>
      rw [poll_empty s hq]
      refine ⟨s, u, 0, by simp [appended], by simp [appended], by simp, hp, hg, rfl, ?_, ?_⟩
      · rw [← hb, ← he]
      · simp [nowAfter, okAfter, ← hq]
    | cons b q =>
      rw [poll_cons s b q hq]
      obtain ⟨s1, h1⟩ := rxByte_total b { s with rxq := q } (parserOk_index hp)
      dsimp only
      rw [h1]
      obtain ⟨blk, evs, e1⟩ := rxByte_frame h1
      have hp1 := rxByte_parserOk h1 hp
      have hfl := (rxByte_faultRegs h1).1
      have hpend : s1.linkTurn.pending < fuel := by
        rw [linkTurn_pending, e1]
        simp [State.pending, hq] at hf ⊢
        omega
      have hug : u.Good := by rw [State.Good, hb]; exact hg
      have hbyte := rxByte_congr (s := { s with rxq := q }) (u := u.setPins s.now s.decodeOk)
        ⟨by simpa using hb, by simpa using hc, by simpa using he, rfl, rfl⟩ b
      rw [h1] at hbyte
      have hexec : exec (.rxByte b s.now s.decodeOk) u = .next (((u.setPins s.now s.decodeOk).take s1).done) := by
        rw [exec_rxByte u b _ _ hug, hbyte]; rfl
      obtain ⟨t, t', k, ht, hk, hj, a5, a6, hrun, e', e⟩ :=
        ih (n + 1) s1.linkTurn (((u.setPins s.now s.decodeOk).take s1).done) (by simpa using hp1)
          (by simpa [State.Good] using hfl.trans hg) hpend (by simp [State.done])
          (by simp [State.done, e1, hc]) (by simp [State.done])
      cases hsc : s.script with
      | nil =>
        have hl : s1.linkTurn = s1 := linkTurn_silent _ (by rw [e1]; exact hsc)
        rw [hl] at ht hk hj hrun e
        have hsc1 : s1.script = [] := by rw [e1]; exact hsc
        have hq1 : s1.rxq = q := by rw [e1]
        have hn1 : s1.now = s.now := by rw [e1]
        have ho1 : s1.decodeOk = s.decodeOk := by rw [e1]
        simp only [hsc1, hq1, hn1, ho1] at ht hk hj hrun e
        dsimp only
        rw [hl]
        refine ⟨t, t', 0, ?_, by simp, by simp, a5, a6, ?_, ?_, ?_⟩
        · rw [ht]; simp [appended]; omega
        · simp only [List.take_nil, appended, List.flatMap_nil, List.append_nil, rxBytesOf_silent] at hrun ⊢
          rw [List.map_cons, runAll, hexec]
          exact hrun
        · rw [e']; simp [State.done, State.setPins]
        · rw [e, e1]; simp
      | cons x rest =>
        have h2 : s1.script = x :: rest := by rw [e1]; exact hsc
        have hq1 : s1.rxq = q := by rw [e1]
        have hn1 : s1.now = s.now := by rw [e1]
        have ho1 : s1.decodeOk = s.decodeOk := by rw [e1]
        have hl : s1.linkTurn = { s1 with script := rest, rxq := q ++ x.rx, now := x.now.getD s.now,
                                          decodeOk := x.decodeOk.getD s.decodeOk } := by
          simp [State.linkTurn, h2, hq1, hn1, ho1]
        rw [hl] at ht hk hj hrun e
        dsimp only at ht hk hj hrun e ⊢
        rw [hl]
        refine ⟨t, t', k+1, ?_, ?_, ?_, a5, a6, ?_, ?_, ?_⟩
        · rw [ht]; simp [appended]; omega
        · simp [appended] at hk ⊢; omega
        · intro j hjk
          cases j with
          | zero => simp
          | succ j => have := hj j (by omega); simp [appended] at this ⊢; omega
        · have es : b :: q ++ appended ((x :: rest).take (k+1)) = b :: (q ++ x.rx ++ appended (rest.take k)) := by
            simp [appended]
          rw [es, rxBytesOf_cons, runAll, hexec]
          exact hrun
        · rw [e']; simp [State.done, State.setPins]
        · rw [e, e1]; simp [nowAfter, okAfter]

/-- The pushed bytes: RXBYTE operations one after the other, with the pins at one level, are the receiver's run, but for
the answers (R140). -/
theorem runAll_rxByte (bs : List Byte) (now : Time) (ok : Bool) (s t : State) (hg : s.Good)
    (h : receiveBytes bs (s.setPins now ok) = .ok t) :
    ∃ t', runAll (bs.map fun b => .rxByte b now ok) s = .next t' ∧
      t = { t' with now := now, decodeOk := ok, status := s.status, res := s.res, draws := s.draws } ∧
      ((bs = [] ∧ t' = s) ∨ (t'.now = now ∧ t'.decodeOk = ok)) := by
  induction bs generalizing s t with
  | nil => cases h; exact ⟨s, rfl, rfl, .inl ⟨rfl, rfl⟩⟩
  | cons b bs ih =>
    cases hb : rxByte b (s.setPins now ok) with
    | error e => simp [receiveBytes, hb] at h
    | ok s' =>
      rw [receiveBytes_cons_ok hb] at h
      obtain ⟨blk, evs, hs'⟩ := rxByte_frame hb
      have hf := (rxByte_faultRegs hb).1
      have hpins : (s'.done.setPins now ok) = s'.done := by rw [hs']; rfl
      have hc := receiveBytes_congr bs (s := s') (u := s'.done.setPins now ok) ⟨rfl, rfl, rfl, by
        rw [hpins]; rfl, by rw [hpins]; rfl⟩
      rw [h] at hc
      obtain ⟨t', ht', e, hn⟩ := ih s'.done _ (by simpa [State.Good] using hf.trans hg) hc
      refine ⟨t', ?_, ?_, .inr ?_⟩
      · rw [List.map_cons, runAll, exec_rxByte s b now ok hg, hb]
        exact ht'
      · obtain ⟨blk2, evs2, rfl⟩ := receiveBytes_frame h
        rw [hs'] at e ⊢
        cases t'
        simp [State.take, State.setPins, State.done] at e ⊢
        simp_all
      · rcases hn with ⟨-, rfl⟩ | hn
        · rw [hs']; exact ⟨rfl, rfl⟩
        · exact hn

/-! ### Whole frames -/

/-- The 13 bytes of a frame, in wire order. -/
theorem frame_toList (f : Frame) :
    f.toList = [f[0], f[1], f[2], f[3], f[4], f[5], f[6], f[7], f[8], f[9], f[10], f[11], f[12]] := by
  have h := frame_drop f
  have : f.toList = f.toList.drop 0 := rfl
  rw [this]
  rw [h 0 (by omega), h 1 (by omega), h 2 (by omega), h 3 (by omega), h 4 (by omega), h 5 (by omega), h 6 (by omega),
    h 7 (by omega), h 8 (by omega), h 9 (by omega), h 10 (by omega), h 11 (by omega), h 12 (by omega)]
  simp

section
variable (s : State) (buf : Vector Byte 13) (b : Byte)

/-- A header byte that leaves an address in range, short of the fourth (R142). -/
theorem rxByte_header (k : Nat) (hk : k < 3) (ha : k = 0 ∨ addrInRange s.cfg (buf.set k b)[1] = true) :
    rxByte b (s.withParser buf .hdr (BitVec.ofNat 4 k)) =
      .ok (s.withParser (buf.set k b) .hdr (BitVec.ofNat 4 (k + 1))) := by
  have e : (BitVec.ofNat 4 k).toNat = k := rxidx_ofNat k (by omega)
  have h := rxByte_hdr b (s.withParser buf .hdr (BitVec.ofNat 4 k)) rfl (by simp only [e]; omega)
  simp only [e] at h
  rw [h, if_neg, if_neg (by omega)]
  rintro ⟨h1, h2⟩
  rcases ha with rfl | ha
  · cases hc : s.cfg.hdrCheck <;> simp [hc, HdrCheck.index] at h1
  · simp [ha] at h2

/-- The fourth header byte, the address in range (R142). -/
theorem rxByte_header_end (ha : addrInRange s.cfg buf[1] = true) :
    rxByte b (s.withParser buf .hdr (BitVec.ofNat 4 3)) = .ok (s.withParser (buf.set 3 b) .cnt 4) :=
  rxByte_hdr_end b (s.withParser buf .hdr (BitVec.ofNat 4 3)) rfl rfl (by simp [ha])

/-- A content byte short of the last (R143). -/
theorem rxByte_content (k : Nat) (hk : k < 12) :
    rxByte b (s.withParser buf .cnt (BitVec.ofNat 4 k)) =
      .ok (s.withParser (buf.set k b) .cnt (BitVec.ofNat 4 (k + 1))) := by
  have e : (BitVec.ofNat 4 k).toNat = k := rxidx_ofNat k (by omega)
  have h := rxByte_cnt_inside b (s.withParser buf .cnt (BitVec.ofNat 4 k)) rfl (by simp only [e]; omega)
  simp only [e] at h
  exact h

end

/-- The four header bytes of a frame whose address is in range, from WaitingForStart (R141, R142). -/
theorem receive_header (s : State) (f : Frame) (h : s.block.pstate = .wfs) (h0 : f[0] = s.cfg.startByte)
    (ha : addrInRange s.cfg f[1] = true) :
    receiveBytes [f[0], f[1], f[2], f[3]] s =
      .ok (s.withParser ((((s.block.rxbuf.set 0 f[0]).set 1 f[1]).set 2 f[2]).set 3 f[3]) .cnt 4) := by
  have e0 := rxByte_wfs_start s h
  rw [← h0] at e0
  rw [receiveBytes_cons_ok e0]
  change receiveBytes _ (s.withParser _ .hdr (BitVec.ofNat 4 1)) = _
  rw [receiveBytes_cons_ok (rxByte_header s _ f[1] 1 (by omega) (by simp [ha]))]
  rw [receiveBytes_cons_ok (rxByte_header s _ f[2] 2 (by omega) (by simp [ha]))]
  rw [receiveBytes_cons_ok (rxByte_header_end s _ f[3] (by simp [ha]))]
  rfl

/-- The nine content bytes of a frame (R143). -/
theorem receive_content (s : State) (f : Frame) (buf : Vector Byte 13)
    (hb : ∀ (j : Nat) (hj : j < 13), j < 4 → buf[j] = f[j]) :
    receiveBytes [f[4], f[5], f[6], f[7], f[8], f[9], f[10], f[11], f[12]] (s.withParser buf .cnt 4) =
      .ok (if validate s.cfg f .dev2host = true then ((s.withParser f .wfs 0).emit (.receive f)).routeFrame f
      else (s.withParser f .wfs 0).emit (.error f)) := by
  change receiveBytes _ (s.withParser _ .cnt (BitVec.ofNat 4 4)) = _
  rw [receiveBytes_cons_ok (rxByte_content s _ f[4] 4 (by omega))]
  rw [receiveBytes_cons_ok (rxByte_content s _ f[5] 5 (by omega))]
  rw [receiveBytes_cons_ok (rxByte_content s _ f[6] 6 (by omega))]
  rw [receiveBytes_cons_ok (rxByte_content s _ f[7] 7 (by omega))]
  rw [receiveBytes_cons_ok (rxByte_content s _ f[8] 8 (by omega))]
  rw [receiveBytes_cons_ok (rxByte_content s _ f[9] 9 (by omega))]
  rw [receiveBytes_cons_ok (rxByte_content s _ f[10] 10 (by omega))]
  rw [receiveBytes_cons_ok (rxByte_content s _ f[11] 11 (by omega))]
  have e : ((((((((buf.set 4 f[4]).set 5 f[5]).set 6
    f[6]).set 7 f[7]).set 8 f[8]).set 9 f[9]).set 10 f[10]).set 11 f[11]).set 12 f[12] = f := by
    refine Vector.ext fun j hj => ?_
    interval_cases j <;> simp [hb]
  have hl := rxByte_cnt_last f[12] (s.withParser ((((((((buf.set 4 f[4]).set 5 f[5]).set 6
    f[6]).set 7 f[7]).set 8 f[8]).set 9 f[9]).set 10 f[10]).set 11 f[11]) .cnt (BitVec.ofNat 4 12)) rfl rfl
  dsimp only at hl
  rw [e] at hl
  rw [receiveBytes_cons_ok hl, receiveBytes_nil]

/-- A whole frame from WaitingForStart, its address in range (R141 to R143). -/
theorem receive_frame (s : State) (f : Frame) (h : s.block.pstate = .wfs) (h0 : f[0] = s.cfg.startByte)
    (ha : addrInRange s.cfg f[1] = true) :
    receiveBytes f.toList s = .ok (
      if validate s.cfg f .dev2host = true then ((s.withParser f .wfs 0).emit (.receive f)).routeFrame f
      else (s.withParser f .wfs 0).emit (.error f)) := by
  rw [frame_toList f, show [f[0], f[1], f[2], f[3], f[4], f[5], f[6], f[7], f[8], f[9], f[10], f[11], f[12]] =
    [f[0], f[1], f[2], f[3]] ++ [f[4], f[5], f[6], f[7], f[8], f[9], f[10], f[11], f[12]] from rfl,
    receiveBytes_append _ _ (receive_header s f h h0 ha)]
  refine receive_content s f _ fun j hj h4 => ?_
  interval_cases j <;> simp

end Sys2Proof.Machine
end

