-- ==== Sys2Proof/Laws/PerInstr.lean ====
section
/-!
SUPPORT. The family MatchesRow, one lemma per instruction: its word matches its row of spec/opcode_table.json, that is
`word AND mask = match` (spec/30_encoding.md R81, R92). About the instruction as syntax only.
-/

namespace Sys2Proof

/-- The mask of a FRAME13 row over the 104-bit word (R81). -/
def frameMask : BitVec 104 := 0xFF00FFFF000000000000000000

/-- An encoded word matches a FRAME13 row. -/
def MatchesFrameRow (m : BitVec 104) : Encoded → Prop
  | .frame w _ _ => w &&& frameMask = m
  | .op _ => False

/-- An encoded word matches a HOSTOP row: its OPSEL (R92). -/
def MatchesOpRow (m : BitVec 5) : Encoded → Prop
  | .op q => q.opsel = m
  | .frame _ _ _ => False

/-- The word of an instruction matches the row of its mnemonic. -/
def Laws.MatchesRow.Statement (i : Instr) : Prop :=
  match i with
  | .cmdReset _ _ _ => MatchesFrameRow 0xA5000008000000000000000000 (Sys2Proof.encode i)
  | .cmdInfo50 _ _ _ => MatchesFrameRow 0xA5005008000000000000000000 (Sys2Proof.encode i)
  | .cmdInfo51 _ _ _ => MatchesFrameRow 0xA5005108000000000000000000 (Sys2Proof.encode i)
  | .cmdInfo52 _ _ _ => MatchesFrameRow 0xA5005208000000000000000000 (Sys2Proof.encode i)
  | .cmdInfo53 _ _ _ => MatchesFrameRow 0xA5005308000000000000000000 (Sys2Proof.encode i)
  | .cmdInfo54 _ _ _ => MatchesFrameRow 0xA5005408000000000000000000 (Sys2Proof.encode i)
  | .cmdInfo55 _ _ _ => MatchesFrameRow 0xA5005508000000000000000000 (Sys2Proof.encode i)
  | .cmdInfo56 _ _ _ => MatchesFrameRow 0xA5005608000000000000000000 (Sys2Proof.encode i)
  | .cmdInfo57 _ _ _ => MatchesFrameRow 0xA5005708000000000000000000 (Sys2Proof.encode i)
  | .cmdInfo58 _ _ _ => MatchesFrameRow 0xA5005808000000000000000000 (Sys2Proof.encode i)
  | .cmdInfo59 _ _ _ => MatchesFrameRow 0xA5005908000000000000000000 (Sys2Proof.encode i)
  | .cmdInfo5A _ _ _ => MatchesFrameRow 0xA5005A08000000000000000000 (Sys2Proof.encode i)
  | .cmdInfo5B _ _ _ => MatchesFrameRow 0xA5005B08000000000000000000 (Sys2Proof.encode i)
  | .cmdInfo5C _ _ _ => MatchesFrameRow 0xA5005C08000000000000000000 (Sys2Proof.encode i)
  | .cmdInfo5D _ _ _ => MatchesFrameRow 0xA5005D08000000000000000000 (Sys2Proof.encode i)
  | .cmdInfo5E _ _ _ => MatchesFrameRow 0xA5005E08000000000000000000 (Sys2Proof.encode i)
  | .cmdInfo5F _ _ _ => MatchesFrameRow 0xA5005F08000000000000000000 (Sys2Proof.encode i)
  | .cmdInfo60 _ _ _ => MatchesFrameRow 0xA5006008000000000000000000 (Sys2Proof.encode i)
  | .cmdInfo61 _ _ _ => MatchesFrameRow 0xA5006108000000000000000000 (Sys2Proof.encode i)
  | .cmdInfo62 _ _ _ => MatchesFrameRow 0xA5006208000000000000000000 (Sys2Proof.encode i)
  | .cmdInfo63 _ _ _ => MatchesFrameRow 0xA5006308000000000000000000 (Sys2Proof.encode i)
  | .cmdStatus90 _ _ _ => MatchesFrameRow 0xA5009008000000000000000000 (Sys2Proof.encode i)
  | .cmdStatus91 _ _ _ => MatchesFrameRow 0xA5009108000000000000000000 (Sys2Proof.encode i)
  | .cmdStatus92 _ _ _ => MatchesFrameRow 0xA5009208000000000000000000 (Sys2Proof.encode i)
  | .cmdStatus93 _ _ _ => MatchesFrameRow 0xA5009308000000000000000000 (Sys2Proof.encode i)
  | .cmdStatus94 _ _ _ => MatchesFrameRow 0xA5009408000000000000000000 (Sys2Proof.encode i)
  | .cmdStatus95 _ _ _ => MatchesFrameRow 0xA5009508000000000000000000 (Sys2Proof.encode i)
  | .cmdStatus96 _ _ _ => MatchesFrameRow 0xA5009608000000000000000000 (Sys2Proof.encode i)
  | .cmdStatus97 _ _ _ => MatchesFrameRow 0xA5009708000000000000000000 (Sys2Proof.encode i)
  | .cmdStatus98 _ _ _ => MatchesFrameRow 0xA5009808000000000000000000 (Sys2Proof.encode i)
  | .cmdDischargeMosfet _ _ _ => MatchesFrameRow 0xA500D908000000000000000000 (Sys2Proof.encode i)
  | .cmdChargeMosfet _ _ _ => MatchesFrameRow 0xA500DA08000000000000000000 (Sys2Proof.encode i)
  | .checksum _ => MatchesOpRow 0x01 (Sys2Proof.encode i)
  | .encode _ _ _ => MatchesOpRow 0x02 (Sys2Proof.encode i)
  | .decode _ => MatchesOpRow 0x03 (Sys2Proof.encode i)
  | .validate _ _ => MatchesOpRow 0x04 (Sys2Proof.encode i)
  | .getU8 _ _ => MatchesOpRow 0x05 (Sys2Proof.encode i)
  | .getU16 _ _ => MatchesOpRow 0x06 (Sys2Proof.encode i)
  | .getU32 _ _ => MatchesOpRow 0x07 (Sys2Proof.encode i)
  | .getBit _ _ _ => MatchesOpRow 0x08 (Sys2Proof.encode i)
  | .getBitL _ _ => MatchesOpRow 0x09 (Sys2Proof.encode i)
  | .decDeci _ _ => MatchesOpRow 0x0A (Sys2Proof.encode i)
  | .decMilli _ _ => MatchesOpRow 0x0B (Sys2Proof.encode i)
  | .decCurrent _ _ => MatchesOpRow 0x0C (Sys2Proof.encode i)
  | .decTemp _ _ => MatchesOpRow 0x0D (Sys2Proof.encode i)
  | .decDuration _ _ => MatchesOpRow 0x0E (Sys2Proof.encode i)
  | .decBits _ _ => MatchesOpRow 0x0F (Sys2Proof.encode i)
  | .rxPoll _ _ => MatchesOpRow 0x10 (Sys2Proof.encode i)
  | .drain _ _ => MatchesOpRow 0x11 (Sys2Proof.encode i)
  | .txFrame _ _ _ => MatchesOpRow 0x12 (Sys2Proof.encode i)
  | .rxByte _ _ _ => MatchesOpRow 0x13 (Sys2Proof.encode i)
  | .decTriple _ _ => MatchesOpRow 0x14 (Sys2Proof.encode i)
  | .decScaled16 _ _ _ => MatchesOpRow 0x15 (Sys2Proof.encode i)
  | .decScaled32 _ _ _ => MatchesOpRow 0x16 (Sys2Proof.encode i)
  | .prepare _ _ => MatchesOpRow 0x18 (Sys2Proof.encode i)
  | .route _ _ _ => MatchesOpRow 0x19 (Sys2Proof.encode i)
  | .setValid _ _ => MatchesOpRow 0x1A (Sys2Proof.encode i)
  | .isReq _ => MatchesOpRow 0x1B (Sys2Proof.encode i)
  | .isValid _ => MatchesOpRow 0x1C (Sys2Proof.encode i)
  | .lastValid _ => MatchesOpRow 0x1D (Sys2Proof.encode i)
  | .setCount _ _ => MatchesOpRow 0x1E (Sys2Proof.encode i)
  | .process _ _ _ => MatchesOpRow 0x1F (Sys2Proof.encode i)

/-- The conjunction of two words byte by byte. -/
theorem and_append_byte {n : Nat} {x y z : BitVec n} {b m r : BitVec 8} (h : x &&& y = z) (h' : b &&& m = r) :
    (x ++ b) &&& (y ++ m) = z ++ r := by
  rw [BitVec.and_append, h, h']

/-- A frame's word under the mask of the table: start, command and length bytes stay (R80, R81). -/
theorem frame_and_mask (c : CmdCode) (b : OpenFields) :
    frameToWord (mkFrame c b) &&& frameMask =
      0xA5#8 ++ 0x00#8 ++ c ++ 0x08#8 ++ 0x00#8 ++ 0x00#8 ++ 0x00#8 ++ 0x00#8 ++ 0x00#8 ++ 0x00#8 ++ 0x00#8 ++ 0x00#8 ++
        0x00#8 := by
  have hm : frameMask = 0xFF#8 ++ 0x00#8 ++ 0xFF#8 ++ 0xFF#8 ++ 0x00#8 ++ 0x00#8 ++ 0x00#8 ++ 0x00#8 ++ 0x00#8 ++
      0x00#8 ++ 0x00#8 ++ 0x00#8 ++ 0x00#8 := by decide
  have all : ∀ x : BitVec 8, x &&& 0xFF#8 = x := by decide
  have none : ∀ x : BitVec 8, x &&& 0x00#8 = 0x00#8 := by decide
  rw [hm]
  have h4 : startByte ++ b.address ++ c ++ lenByte &&& 0xFF#8 ++ 0x00#8 ++ 0xFF#8 ++ 0xFF#8 = 0xA5#8 ++ 0x00#8 ++ c ++ 0x08#8 :=
    and_append_byte (and_append_byte (and_append_byte (all _) (none _)) (all _)) (all _)
  exact and_append_byte (and_append_byte (and_append_byte (and_append_byte (and_append_byte (and_append_byte
    (and_append_byte (and_append_byte (and_append_byte h4 (none _)) (none _)) (none _)) (none _)) (none _)) (none _))
    (none _)) (none _)) (none _)

theorem Laws.MatchesRow.cmdReset (b : OpenFields) (now : Time) (ok : Bool) :
    Laws.MatchesRow.Statement (.cmdReset b now ok) :=
  frame_and_mask 0x00 b

theorem Laws.MatchesRow.cmdInfo50 (b : OpenFields) (now : Time) (ok : Bool) :
    Laws.MatchesRow.Statement (.cmdInfo50 b now ok) :=
  frame_and_mask 0x50 b

theorem Laws.MatchesRow.cmdInfo51 (b : OpenFields) (now : Time) (ok : Bool) :
    Laws.MatchesRow.Statement (.cmdInfo51 b now ok) :=
  frame_and_mask 0x51 b

theorem Laws.MatchesRow.cmdInfo52 (b : OpenFields) (now : Time) (ok : Bool) :
    Laws.MatchesRow.Statement (.cmdInfo52 b now ok) :=
  frame_and_mask 0x52 b

theorem Laws.MatchesRow.cmdInfo53 (b : OpenFields) (now : Time) (ok : Bool) :
    Laws.MatchesRow.Statement (.cmdInfo53 b now ok) :=
  frame_and_mask 0x53 b

theorem Laws.MatchesRow.cmdInfo54 (b : OpenFields) (now : Time) (ok : Bool) :
    Laws.MatchesRow.Statement (.cmdInfo54 b now ok) :=
  frame_and_mask 0x54 b

theorem Laws.MatchesRow.cmdInfo55 (b : OpenFields) (now : Time) (ok : Bool) :
    Laws.MatchesRow.Statement (.cmdInfo55 b now ok) :=
  frame_and_mask 0x55 b

theorem Laws.MatchesRow.cmdInfo56 (b : OpenFields) (now : Time) (ok : Bool) :
    Laws.MatchesRow.Statement (.cmdInfo56 b now ok) :=
  frame_and_mask 0x56 b

theorem Laws.MatchesRow.cmdInfo57 (b : OpenFields) (now : Time) (ok : Bool) :
    Laws.MatchesRow.Statement (.cmdInfo57 b now ok) :=
  frame_and_mask 0x57 b

theorem Laws.MatchesRow.cmdInfo58 (b : OpenFields) (now : Time) (ok : Bool) :
    Laws.MatchesRow.Statement (.cmdInfo58 b now ok) :=
  frame_and_mask 0x58 b

theorem Laws.MatchesRow.cmdInfo59 (b : OpenFields) (now : Time) (ok : Bool) :
    Laws.MatchesRow.Statement (.cmdInfo59 b now ok) :=
  frame_and_mask 0x59 b

theorem Laws.MatchesRow.cmdInfo5A (b : OpenFields) (now : Time) (ok : Bool) :
    Laws.MatchesRow.Statement (.cmdInfo5A b now ok) :=
  frame_and_mask 0x5A b

theorem Laws.MatchesRow.cmdInfo5B (b : OpenFields) (now : Time) (ok : Bool) :
    Laws.MatchesRow.Statement (.cmdInfo5B b now ok) :=
  frame_and_mask 0x5B b

theorem Laws.MatchesRow.cmdInfo5C (b : OpenFields) (now : Time) (ok : Bool) :
    Laws.MatchesRow.Statement (.cmdInfo5C b now ok) :=
  frame_and_mask 0x5C b

theorem Laws.MatchesRow.cmdInfo5D (b : OpenFields) (now : Time) (ok : Bool) :
    Laws.MatchesRow.Statement (.cmdInfo5D b now ok) :=
  frame_and_mask 0x5D b

theorem Laws.MatchesRow.cmdInfo5E (b : OpenFields) (now : Time) (ok : Bool) :
    Laws.MatchesRow.Statement (.cmdInfo5E b now ok) :=
  frame_and_mask 0x5E b

theorem Laws.MatchesRow.cmdInfo5F (b : OpenFields) (now : Time) (ok : Bool) :
    Laws.MatchesRow.Statement (.cmdInfo5F b now ok) :=
  frame_and_mask 0x5F b

theorem Laws.MatchesRow.cmdInfo60 (b : OpenFields) (now : Time) (ok : Bool) :
    Laws.MatchesRow.Statement (.cmdInfo60 b now ok) :=
  frame_and_mask 0x60 b

theorem Laws.MatchesRow.cmdInfo61 (b : OpenFields) (now : Time) (ok : Bool) :
    Laws.MatchesRow.Statement (.cmdInfo61 b now ok) :=
  frame_and_mask 0x61 b

theorem Laws.MatchesRow.cmdInfo62 (b : OpenFields) (now : Time) (ok : Bool) :
    Laws.MatchesRow.Statement (.cmdInfo62 b now ok) :=
  frame_and_mask 0x62 b

theorem Laws.MatchesRow.cmdInfo63 (b : OpenFields) (now : Time) (ok : Bool) :
    Laws.MatchesRow.Statement (.cmdInfo63 b now ok) :=
  frame_and_mask 0x63 b

theorem Laws.MatchesRow.cmdStatus90 (b : OpenFields) (now : Time) (ok : Bool) :
    Laws.MatchesRow.Statement (.cmdStatus90 b now ok) :=
  frame_and_mask 0x90 b

theorem Laws.MatchesRow.cmdStatus91 (b : OpenFields) (now : Time) (ok : Bool) :
    Laws.MatchesRow.Statement (.cmdStatus91 b now ok) :=
  frame_and_mask 0x91 b

theorem Laws.MatchesRow.cmdStatus92 (b : OpenFields) (now : Time) (ok : Bool) :
    Laws.MatchesRow.Statement (.cmdStatus92 b now ok) :=
  frame_and_mask 0x92 b

theorem Laws.MatchesRow.cmdStatus93 (b : OpenFields) (now : Time) (ok : Bool) :
    Laws.MatchesRow.Statement (.cmdStatus93 b now ok) :=
  frame_and_mask 0x93 b

theorem Laws.MatchesRow.cmdStatus94 (b : OpenFields) (now : Time) (ok : Bool) :
    Laws.MatchesRow.Statement (.cmdStatus94 b now ok) :=
  frame_and_mask 0x94 b

theorem Laws.MatchesRow.cmdStatus95 (b : OpenFields) (now : Time) (ok : Bool) :
    Laws.MatchesRow.Statement (.cmdStatus95 b now ok) :=
  frame_and_mask 0x95 b

theorem Laws.MatchesRow.cmdStatus96 (b : OpenFields) (now : Time) (ok : Bool) :
    Laws.MatchesRow.Statement (.cmdStatus96 b now ok) :=
  frame_and_mask 0x96 b

theorem Laws.MatchesRow.cmdStatus97 (b : OpenFields) (now : Time) (ok : Bool) :
    Laws.MatchesRow.Statement (.cmdStatus97 b now ok) :=
  frame_and_mask 0x97 b

theorem Laws.MatchesRow.cmdStatus98 (b : OpenFields) (now : Time) (ok : Bool) :
    Laws.MatchesRow.Statement (.cmdStatus98 b now ok) :=
  frame_and_mask 0x98 b

theorem Laws.MatchesRow.cmdDischargeMosfet (b : OpenFields) (now : Time) (ok : Bool) :
    Laws.MatchesRow.Statement (.cmdDischargeMosfet b now ok) :=
  frame_and_mask 0xD9 b

theorem Laws.MatchesRow.cmdChargeMosfet (b : OpenFields) (now : Time) (ok : Bool) :
    Laws.MatchesRow.Statement (.cmdChargeMosfet b now ok) :=
  frame_and_mask 0xDA b

theorem Laws.MatchesRow.checksum (f : Frame) :
    Laws.MatchesRow.Statement (.checksum f) :=
  rfl

theorem Laws.MatchesRow.encode (c : CmdCode) (r : Role) (p : Payload) :
    Laws.MatchesRow.Statement (.encode c r p) :=
  rfl

theorem Laws.MatchesRow.decode (f : Frame) :
    Laws.MatchesRow.Statement (.decode f) :=
  rfl

theorem Laws.MatchesRow.validate (f : Frame) (r : Role) :
    Laws.MatchesRow.Statement (.validate f r) :=
  rfl

theorem Laws.MatchesRow.getU8 (f : Frame) (off : Byte) :
    Laws.MatchesRow.Statement (.getU8 f off) :=
  rfl

theorem Laws.MatchesRow.getU16 (f : Frame) (off : Byte) :
    Laws.MatchesRow.Statement (.getU16 f off) :=
  rfl

theorem Laws.MatchesRow.getU32 (f : Frame) (off : Byte) :
    Laws.MatchesRow.Statement (.getU32 f off) :=
  rfl

theorem Laws.MatchesRow.getBit (f : Frame) (off bitpos : Byte) :
    Laws.MatchesRow.Statement (.getBit f off bitpos) :=
  rfl

theorem Laws.MatchesRow.getBitL (f : Frame) (idx : Byte) :
    Laws.MatchesRow.Statement (.getBitL f idx) :=
  rfl

theorem Laws.MatchesRow.decDeci (f : Frame) (off : Byte) :
    Laws.MatchesRow.Statement (.decDeci f off) :=
  rfl

theorem Laws.MatchesRow.decMilli (f : Frame) (off : Byte) :
    Laws.MatchesRow.Statement (.decMilli f off) :=
  rfl

theorem Laws.MatchesRow.decCurrent (f : Frame) (off : Byte) :
    Laws.MatchesRow.Statement (.decCurrent f off) :=
  rfl

theorem Laws.MatchesRow.decTemp (f : Frame) (off : Byte) :
    Laws.MatchesRow.Statement (.decTemp f off) :=
  rfl

theorem Laws.MatchesRow.decDuration (f : Frame) (off : Byte) :
    Laws.MatchesRow.Statement (.decDuration f off) :=
  rfl

theorem Laws.MatchesRow.decBits (f : Frame) (off : Byte) :
    Laws.MatchesRow.Statement (.decBits f off) :=
  rfl

theorem Laws.MatchesRow.rxPoll (now : Time) (ok : Bool) :
    Laws.MatchesRow.Statement (.rxPoll now ok) :=
  rfl

theorem Laws.MatchesRow.drain (now : Time) (ok : Bool) :
    Laws.MatchesRow.Statement (.drain now ok) :=
  rfl

theorem Laws.MatchesRow.txFrame (f : Frame) (now : Time) (ok : Bool) :
    Laws.MatchesRow.Statement (.txFrame f now ok) :=
  rfl

theorem Laws.MatchesRow.rxByte (b : Byte) (now : Time) (ok : Bool) :
    Laws.MatchesRow.Statement (.rxByte b now ok) :=
  rfl

theorem Laws.MatchesRow.decTriple (f : Frame) (off : Byte) :
    Laws.MatchesRow.Statement (.decTriple f off) :=
  rfl

theorem Laws.MatchesRow.decScaled16 (f : Frame) (off : Byte) (divisor : BitVec 32) :
    Laws.MatchesRow.Statement (.decScaled16 f off divisor) :=
  rfl

theorem Laws.MatchesRow.decScaled32 (f : Frame) (off : Byte) (divisor : BitVec 32) :
    Laws.MatchesRow.Statement (.decScaled32 f off divisor) :=
  rfl

theorem Laws.MatchesRow.prepare (c : CmdCode) (p : Payload) :
    Laws.MatchesRow.Statement (.prepare c p) :=
  rfl

theorem Laws.MatchesRow.route (f : Frame) (now : Time) (ok : Bool) :
    Laws.MatchesRow.Statement (.route f now ok) :=
  rfl

theorem Laws.MatchesRow.setValid (c : CmdCode) (now : Time) :
    Laws.MatchesRow.Statement (.setValid c now) :=
  rfl

theorem Laws.MatchesRow.isReq (c : CmdCode) :
    Laws.MatchesRow.Statement (.isReq c) :=
  rfl

theorem Laws.MatchesRow.isValid (c : CmdCode) :
    Laws.MatchesRow.Statement (.isValid c) :=
  rfl

theorem Laws.MatchesRow.lastValid (c : CmdCode) :
    Laws.MatchesRow.Statement (.lastValid c) :=
  rfl

theorem Laws.MatchesRow.setCount (c : CmdCode) (count : Byte) :
    Laws.MatchesRow.Statement (.setCount c count) :=
  rfl

theorem Laws.MatchesRow.process (f : Frame) (now : Time) (ok : Bool) :
    Laws.MatchesRow.Statement (.process f now ok) :=
  rfl

end Sys2Proof
end

