-- ==== Sys2Proof/Laws/Runs.lean ====
section
/-!
SUPPORT. What an instruction can do, sorted: a CODEC or VALDEC operation answers, faults or is refused; for all others, a
relation between states that quiet updates and byte steps respect is respected by the instruction.
-/

namespace Sys2Proof.Machine

/-- The rows of a state whose table did not change. -/
theorem State.row_congr {s t : State} (h : t.block.descs = s.block.descs) (c : CmdCode) : t.row c = s.row c := by
  simp [State.row, Block.row, h]

theorem newEvents_eq {s t : State} {events : List Event} (h : t.evq = s.evq ++ events) : newEvents s t = events := by
  simp [newEvents, h]

/-- A property of every answer and of every WindowFault holds of every next state of a window read. -/
theorem withBytes_induct {s t : State} {f : Frame} {off : Byte} {n : Nat} {run : List Byte → Outcome}
    {P : State → Prop} (h : withBytes s f off n run = .next t) (hfault : ∀ c i, P (s.windowFault c i))
    (hrun : ∀ bs, run bs = .next t → P t) : P t := by
  rcases withBytes_next h with ⟨-, rfl⟩ | ⟨-, bs, -, h⟩
  · exact hfault _ _
  · exact hrun bs h

/-- A CODEC or VALDEC operation raises a WindowFault, answers, or is refused (R110, R210). -/
theorem exec_codec_induct (i : Instr) (s t : State) (P : State → Prop) (hi : IsCodecOrValdec i = true)
    (h : exec i s = .next t) (hfault : ∀ c i, P (s.windowFault c i)) (hanswer : ∀ k v, P (s.answer k v))
    (hrefuse : ∀ st, P (s.refuse st)) : P t := by
  have hread : ∀ f off n (run : Nat → Outcome), withRead s f off n run = .next t → (∀ v, run v = .next t → P t) → P t :=
    fun f off n run h hr => withBytes_induct h hfault fun bs hb => hr _ hb
  have hscaled : ∀ f off n d, scaled s f off n d = .next t → P t := by
    intro f off n d h
    unfold scaled at h
    split at h
    · cases h; exact hrefuse _
    · exact hread _ _ _ _ h fun v hb => by cases hb; exact hanswer _ _
  cases i <;> try (cases hi; done)
  all_goals
    rcases guarded_next h with ⟨-, rfl⟩ | ⟨-, h⟩
    · exact hrefuse _
  case checksum => cases h; exact hanswer _ _
  case encode => cases h; exact hanswer _ _
  case decode => cases h; exact hanswer _ _
  case validate => cases h; exact hanswer _ _
  case decScaled16 => exact hscaled _ _ _ _ h
  case decScaled32 => exact hscaled _ _ _ _ h
  case decTriple => exact withBytes_induct h hfault fun bs hb => by cases hb; exact hanswer _ _
  case getBit =>
    refine hread _ _ _ _ h fun v hb => ?_
    split at hb <;> cases hb
    · exact hfault _ _
    · exact hanswer _ _
  case getBitL =>
    split at h
    · cases h; exact hfault _ _
    · exact hread _ _ _ _ h fun v hb => by cases hb; exact hanswer _ _
  all_goals exact hread _ _ _ _ h fun v hb => by cases hb; exact hanswer _ _

/-- The operations that write a descriptor row themselves. -/
def WritesRow : Instr → Bool
  | .prepare _ _ | .route _ _ _ | .setValid _ _ | .setCount _ _ | .process _ _ _ => true
  | _ => false

section
variable (R : State → State → Prop) (htrans : ∀ s t u, R s t → R t u → R s u)
  (hquiet : ∀ s t : State, t.block.descs = s.block.descs → t.evq = s.evq → R s t)
include htrans hquiet

/-- A relation that byte steps, the `Transmit` event and every update outside the table and EVQ respect is respected by
every instruction that writes no row itself. -/
theorem exec_receive_induct (hbyte : ∀ b s t, rxByte b s = .ok t → R s t)
    (htransmit : ∀ s f, R s (s.emit (.transmit f))) (i : Instr) (s t : State) (hi : WritesRow i = false)
    (h : exec i s = .next t) : R s t := by
  have hrefl : ∀ s, R s s := fun s => hquiet s s rfl rfl
  have hdrain : ∀ s m t, drainBytes s = .ok (m, t) → R s t := fun s m t h =>
    drainLoop_induct R hrefl htrans hbyte (fun s q => hquiet _ _ rfl rfl)
      (fun s => hquiet _ _ (by simp) (by simp)) _ _ _ _ _ h
  by_cases hc : IsCodecOrValdec i = true
  · exact exec_codec_induct i s t (R s) hc h (fun _ _ => hquiet _ _ rfl rfl) (fun _ _ => hquiet _ _ rfl rfl)
      (fun _ => hquiet _ _ rfl rfl)
  · cases hf : frameOf i with
    | some x =>
      obtain ⟨f, now, ok⟩ := x
      rw [exec_frame i f now ok s hf] at h
      rcases guarded_next h with ⟨-, rfl⟩ | ⟨-, h⟩
      · exact hquiet _ _ rfl rfl
      · cases hr : receiveBytes f.toList (s.setPins now ok) with
        | error e => rw [hr] at h; cases h
        | ok u =>
          rw [hr] at h; cases h
          exact htrans _ (s.setPins now ok) _ (hquiet _ _ rfl rfl)
            (htrans _ _ _ (receiveBytes_induct R hrefl htrans hbyte _ _ _ hr) (hquiet _ _ rfl rfl))
    | none =>
      cases i <;> first | (cases hf; done) | (cases hi; done) | (exact absurd rfl hc) | skip
      all_goals
        rcases guarded_next h with ⟨-, rfl⟩ | ⟨-, h⟩
        · exact hquiet _ _ rfl rfl
      next now ok _ =>
        cases hp : (s.setPins now ok).poll with
        | none => rw [hp] at h; cases h; exact hquiet _ _ rfl rfl
        | some x =>
          obtain ⟨b, s1⟩ := x
          rw [hp] at h
          have h1 : R s s1 := by
            unfold State.poll at hp
            split at hp <;> cases hp
            exact hquiet _ _ rfl rfl
          cases hr : rxByte b s1 with
          | error e => simp only [hr] at h; cases h
          | ok u =>
            simp only [hr] at h; cases h
            exact htrans _ _ _ h1 (htrans _ _ _ (hbyte _ _ _ hr) (hquiet _ _ rfl rfl))
      next now ok _ =>
        cases hr : drainBytes (s.setPins now ok) with
        | error e => rw [hr] at h; cases h
        | ok x =>
          rw [hr] at h; cases h
          exact htrans _ (s.setPins now ok) _ (hquiet _ _ rfl rfl)
            (htrans _ _ _ (hdrain _ _ _ hr) (hquiet _ _ rfl rfl))
      next f now ok _ =>
        cases hr : drainBytes (((s.setPins now ok).emit (.transmit f)).write f) with
        | error e => rw [hr] at h; cases h
        | ok x =>
          rw [hr] at h; cases h
          exact htrans _ _ _ (htransmit s f) (htrans _ (((s.setPins now ok).emit (.transmit f)).write f) _
            (hquiet _ _ rfl rfl) (htrans _ _ _ (hdrain _ _ _ hr) (hquiet _ _ rfl rfl)))
      next b now ok _ =>
        cases hr : rxByte b (s.setPins now ok) with
        | error e => rw [hr] at h; cases h
        | ok u =>
          rw [hr] at h; cases h
          exact htrans _ (s.setPins now ok) _ (hquiet _ _ rfl rfl)
            (htrans _ _ _ (hbyte _ _ _ hr) (hquiet _ _ rfl rfl))
      all_goals
        rcases withDesc_next h with ⟨-, rfl⟩ | ⟨fam, -, h⟩
        · exact hquiet _ _ rfl rfl
        · cases h; exact hquiet _ _ rfl rfl

/-- The same for the five operations that write a row, from what each of them writes. -/
theorem exec_row_induct (i : Instr) (s t : State) (hi : WritesRow i = true)
    (hprepare : ∀ c p, i = .prepare c p → R s (s.setRow c { s.row c with rxcnt := 0, blocked := false }))
    (hvalid : ∀ c now, i = .setValid c now → R s ((s.setNow now).setValidRow c))
    (hcount : ∀ c n, i = .setCount c n → R s (s.setRow c { s.row c with itemCount := n }))
    (hroute : ∀ f now ok, i = .route f now ok → R s ((s.setPins now ok).routeFrame f))
    (hprocess : ∀ f now ok fam, i = .process f now ok → s.desc f[2] = some fam →
      R s (processFrame (s.setPins now ok) fam f).state)
    (h : exec i s = .next t) : R s t := by
  cases i <;> try (cases hi; done)
  all_goals
    rcases guarded_next h with ⟨-, rfl⟩ | ⟨-, h⟩
    · exact hquiet _ _ rfl rfl
  case route => cases h; exact htrans _ _ _ (hroute _ _ _ rfl) (hquiet _ _ rfl rfl)
  all_goals
    rcases withDesc_next h with ⟨-, rfl⟩ | ⟨fam, hd, h⟩
    · exact hquiet _ _ rfl rfl
  case prepare => cases h; exact htrans _ _ _ (hprepare _ _ rfl) (hquiet _ _ rfl rfl)
  case setValid => cases h; exact htrans _ _ _ (hvalid _ _ rfl) (hquiet _ _ rfl rfl)
  case setCount =>
    cases fam <;> cases h
    · exact hquiet _ _ rfl rfl
    · exact hquiet _ _ rfl rfl
    · exact htrans _ _ _ (hcount _ _ rfl) (hquiet _ _ rfl rfl)
  case process => cases h; exact htrans _ _ _ (hprocess _ _ _ fam rfl hd) (hquiet _ _ rfl rfl)

end

end Sys2Proof.Machine
end

