-- ==== Sys2Proof/Tests/Slice0.lean ====
section
/-!
SUPPORT. Tests with the values of spec/95_test_vectors.md (its entries are named S1 … P6), or written out by hand from the rule
named; and a witness for the hypotheses of each statement of Certificates/Slice0/Obligations.lean that has any.
-/

namespace Sys2Proof.Tests

open Sys2Proof.Machine

/-! ### The frames and the configuration of spec/95_test_vectors.md -/

def frameQ90 : Frame := #v[0xA5, 0x40, 0x90, 0x08, 0x00, 0x00, 0x00, 0x00, 0x00, 0x00, 0x00, 0x00, 0x7D]
def frameR90 : Frame := #v[0xA5, 0x01, 0x90, 0x08, 0x00, 0xC8, 0x75, 0x30, 0x03, 0x84, 0x00, 0x00, 0x32]
def frameR90x : Frame := #v[0xA5, 0x01, 0x90, 0x08, 0x00, 0xC8, 0x75, 0x30, 0x03, 0x84, 0x00, 0x00, 0x33]
def frameSTR1 : Frame := #v[0xA5, 0x01, 0x62, 0x08, 0x01, 0x31, 0x2E, 0x30, 0x20, 0x20, 0x20, 0x20, 0x20]
def frameSTR2 : Frame := #v[0xA5, 0x01, 0x62, 0x08, 0x02, 0x30, 0x20, 0x20, 0x20, 0x20, 0x20, 0x20, 0x02]
def frameARR1 : Frame := #v[0xA5, 0x01, 0x95, 0x08, 0x01, 0x0C, 0xE4, 0x0C, 0xE5, 0x0C, 0xE6, 0x00, 0x17]
def frameARR2 : Frame := #v[0xA5, 0x01, 0x95, 0x08, 0x02, 0x0C, 0xE7, 0x0C, 0xE8, 0x0C, 0xE9, 0x00, 0x21]
def frameARR3 : Frame := #v[0xA5, 0x01, 0x95, 0x08, 0x03, 0x0C, 0xEA, 0x00, 0x00, 0x00, 0x00, 0x00, 0x3C]
def frameNR60 : Frame := #v[0xA5, 0x01, 0x60, 0x08, 0x00, 0x00, 0x00, 0x00, 0x00, 0x00, 0x00, 0x00, 0x0E]
def frameL07 : Frame := #v[0xA5, 0x01, 0x90, 0x07, 0x00, 0x00, 0x00, 0x00, 0x00, 0x00, 0x00, 0x00, 0x3D]
def frameFA : Frame := #v[0xA5, 0x01, 0x91, 0x08, 0x12, 0x34, 0x56, 0x78, 0x9A, 0xBC, 0xDE, 0xF0, 0x77]
def frameD1 : Frame := #v[0xA5, 0x01, 0x90, 0x08, 0x75, 0x2F, 0x75, 0x31, 0x00, 0x00, 0xFF, 0xFF, 0x86]
def frameD2 : Frame := #v[0xA5, 0x01, 0x92, 0x08, 0x00, 0x28, 0x41, 0xFF, 0x05, 0x18, 0x0B, 0x0A, 0xDA]

/-- The test configuration: 0x90 and 0x94 SINGLE, 0x62 SEQ with 2 frames, 0x95 ARRAY with 3 items a frame. -/
def testConfig : Configuration :=
  { descs := ((((Vector.replicate 256 none).set 0x90 (some .single)).set 0x94 (some .single)).set 0x62
      (some (.seq ⟨2, by decide⟩))).set 0x95 (some (.array ⟨3, by decide⟩)) }

/-- The reset state with the test configuration. -/
def start : State := State.resetWith testConfig

/-- The next state of an outcome (`start` where there is none). -/
def after (o : Outcome) : State :=
  match o with
  | .next t => t
  | .fault _ => start
  | .refused _ => start

/-- `s` with bytes in RXQ. -/
def withRxq (s : State) (bytes : List Byte) : State := { s with rxq := bytes }

/-- `s` with the parser at a position, its buffer holding `f`. -/
def atByte (s : State) (p : PState) (i : BitVec 4) (f : Frame) : State :=
  { s with block := { s.block with pstate := p, rxidx := i, rxbuf := f } }

/-- `s` with FAULT = 1. -/
def faulted (s : State) : State := s.windowFault wfBytes 0x0702

/-! ### Well-formedness refuses -/

theorem test_refuses_getU8 : (Instr.getU8 frameFA 8).wellFormed = false := by decide
theorem test_refuses_getU16 : (Instr.getU16 frameFA 7).wellFormed = false := by decide
theorem test_refuses_getU32 : (Instr.getU32 frameFA 5).wellFormed = false := by decide
theorem test_refuses_getBit_offset : (Instr.getBit frameFA 8 0).wellFormed = false := by decide
theorem test_refuses_getBit_position : (Instr.getBit frameFA 0 8).wellFormed = false := by decide
theorem test_refuses_getBitL : (Instr.getBitL frameFA 64).wellFormed = false := by decide
theorem test_refuses_decDeci : (Instr.decDeci frameFA 7).wellFormed = false := by decide
theorem test_refuses_decMilli : (Instr.decMilli frameFA 7).wellFormed = false := by decide
theorem test_refuses_decCurrent : (Instr.decCurrent frameFA 7).wellFormed = false := by decide
theorem test_refuses_decTemp : (Instr.decTemp frameFA 8).wellFormed = false := by decide
theorem test_refuses_decDuration : (Instr.decDuration frameFA 8).wellFormed = false := by decide
theorem test_refuses_decBits : (Instr.decBits frameFA 8).wellFormed = false := by decide
theorem test_refuses_decTriple : (Instr.decTriple frameFA 6).wellFormed = false := by decide
theorem test_refuses_decScaled16_offset : (Instr.decScaled16 frameFA 7 1).wellFormed = false := by decide
theorem test_refuses_decScaled16_divisor : (Instr.decScaled16 frameFA 4 0).wellFormed = false := by decide
theorem test_refuses_decScaled32_offset : (Instr.decScaled32 frameFA 5 1).wellFormed = false := by decide
theorem test_refuses_decScaled32_divisor : (Instr.decScaled32 frameFA 4 0).wellFormed = false := by decide
theorem test_refuses_frame_address : (Instr.cmdStatus90 ⟨0x02, payloadOf frameR90, 0x33⟩ 0 true).wellFormed = false := rfl
theorem test_refuses_frame_checksum : (Instr.cmdStatus90 ⟨0x01, payloadOf frameR90, 0x33⟩ 0 true).wellFormed = false := rfl
theorem test_accepts_frame : (Instr.cmdStatus90 ⟨0x01, payloadOf frameR90, 0x32⟩ 0 true).wellFormed = true := rfl

theorem test_refuses_family_3 : (RawDesc.mk true 3 1 1).check = .error .illegalFamily := rfl
theorem test_refuses_zero_fixedCount : (RawDesc.mk true 1 0 1).check = .error .zeroFixedCount := rfl
theorem test_refuses_zero_itemsPerFrame : (RawDesc.mk true 2 1 0).check = .error .zeroItemsPerFrame := rfl
theorem test_refuses_seqOff_8 : (RawParams.mk 8 4).check = .error .seqOffOutsideWindow := rfl
theorem test_refuses_hdrCheck_3 : (RawParams.mk 0 3).check = .error .hdrCheckNeither2Nor4 := rfl
theorem test_accepts_descriptor : (RawDesc.mk true 1 2 0).check = .ok (some (.seq ⟨2, by decide⟩)) := rfl

/-- DESC_CFG aside, what R7 and R8 give as defaults. -/
theorem test_defaults :
    (testConfig.startByte, testConfig.lenByte, testConfig.addrDev2Host, testConfig.addrHost2Dev, testConfig.rxAddrMin,
      testConfig.rxAddrMax) = (0xA5, 0x08, 0x01, 0x40, 0x00, 0x3F) ∧
    (testConfig.frameSize.val, testConfig.headerSize.val, testConfig.payloadOff.val, testConfig.payloadSize.val,
      testConfig.cksumOff.val, testConfig.hdrCheck.index) = (13, 4, 4, 8, 12, 4) := ⟨rfl, rfl⟩

/-! ### Decoding: every row of the table, from a word written out from its encoding

A frame word is the 13 bytes of R80, here the zero-payload response frame of V2; the port's input is `port` with every field
different from 0 and the OPSEL of R92. -/

/-- A port input whose fields all carry something, with a given OPSEL. -/
def port (opsel : BitVec 5) : PortIn where
  f := 0xA501900800C875300384000032
  pay := 0x1122334455667788
  now := 0x3ED
  divisor := 0x3E8
  byte := 0x5A
  count := 7
  bitpos := 5
  off := 2
  cmd := 0x95
  decodeOk := 1
  role := 1
  opsel := opsel

theorem test_decode_cmdReset : Sys2Proof.decode (.frame 0xA50100080000000000000000AE 0x3ED true) =
    .ok (.cmdReset ⟨0x01, #v[0, 0, 0, 0, 0, 0, 0, 0], 0xAE⟩ 0x3ED true) := rfl
theorem test_decode_cmdInfo50 : Sys2Proof.decode (.frame 0xA50150080000000000000000FE 0x3ED true) =
    .ok (.cmdInfo50 ⟨0x01, #v[0, 0, 0, 0, 0, 0, 0, 0], 0xFE⟩ 0x3ED true) := rfl
theorem test_decode_cmdInfo51 : Sys2Proof.decode (.frame 0xA50151080000000000000000FF 0x3ED true) =
    .ok (.cmdInfo51 ⟨0x01, #v[0, 0, 0, 0, 0, 0, 0, 0], 0xFF⟩ 0x3ED true) := rfl
theorem test_decode_cmdInfo52 : Sys2Proof.decode (.frame 0xA5015208000000000000000000 0x3ED true) =
    .ok (.cmdInfo52 ⟨0x01, #v[0, 0, 0, 0, 0, 0, 0, 0], 0x00⟩ 0x3ED true) := rfl
theorem test_decode_cmdInfo53 : Sys2Proof.decode (.frame 0xA5015308000000000000000001 0x3ED true) =
    .ok (.cmdInfo53 ⟨0x01, #v[0, 0, 0, 0, 0, 0, 0, 0], 0x01⟩ 0x3ED true) := rfl
theorem test_decode_cmdInfo54 : Sys2Proof.decode (.frame 0xA5015408000000000000000002 0x3ED true) =
    .ok (.cmdInfo54 ⟨0x01, #v[0, 0, 0, 0, 0, 0, 0, 0], 0x02⟩ 0x3ED true) := rfl
theorem test_decode_cmdInfo55 : Sys2Proof.decode (.frame 0xA5015508000000000000000003 0x3ED true) =
    .ok (.cmdInfo55 ⟨0x01, #v[0, 0, 0, 0, 0, 0, 0, 0], 0x03⟩ 0x3ED true) := rfl
theorem test_decode_cmdInfo56 : Sys2Proof.decode (.frame 0xA5015608000000000000000004 0x3ED true) =
    .ok (.cmdInfo56 ⟨0x01, #v[0, 0, 0, 0, 0, 0, 0, 0], 0x04⟩ 0x3ED true) := rfl
theorem test_decode_cmdInfo57 : Sys2Proof.decode (.frame 0xA5015708000000000000000005 0x3ED true) =
    .ok (.cmdInfo57 ⟨0x01, #v[0, 0, 0, 0, 0, 0, 0, 0], 0x05⟩ 0x3ED true) := rfl
theorem test_decode_cmdInfo58 : Sys2Proof.decode (.frame 0xA5015808000000000000000006 0x3ED true) =
    .ok (.cmdInfo58 ⟨0x01, #v[0, 0, 0, 0, 0, 0, 0, 0], 0x06⟩ 0x3ED true) := rfl
theorem test_decode_cmdInfo59 : Sys2Proof.decode (.frame 0xA5015908000000000000000007 0x3ED true) =
    .ok (.cmdInfo59 ⟨0x01, #v[0, 0, 0, 0, 0, 0, 0, 0], 0x07⟩ 0x3ED true) := rfl
theorem test_decode_cmdInfo5A : Sys2Proof.decode (.frame 0xA5015A08000000000000000008 0x3ED true) =
    .ok (.cmdInfo5A ⟨0x01, #v[0, 0, 0, 0, 0, 0, 0, 0], 0x08⟩ 0x3ED true) := rfl
theorem test_decode_cmdInfo5B : Sys2Proof.decode (.frame 0xA5015B08000000000000000009 0x3ED true) =
    .ok (.cmdInfo5B ⟨0x01, #v[0, 0, 0, 0, 0, 0, 0, 0], 0x09⟩ 0x3ED true) := rfl
theorem test_decode_cmdInfo5C : Sys2Proof.decode (.frame 0xA5015C0800000000000000000A 0x3ED true) =
    .ok (.cmdInfo5C ⟨0x01, #v[0, 0, 0, 0, 0, 0, 0, 0], 0x0A⟩ 0x3ED true) := rfl
theorem test_decode_cmdInfo5D : Sys2Proof.decode (.frame 0xA5015D0800000000000000000B 0x3ED true) =
    .ok (.cmdInfo5D ⟨0x01, #v[0, 0, 0, 0, 0, 0, 0, 0], 0x0B⟩ 0x3ED true) := rfl
theorem test_decode_cmdInfo5E : Sys2Proof.decode (.frame 0xA5015E0800000000000000000C 0x3ED true) =
    .ok (.cmdInfo5E ⟨0x01, #v[0, 0, 0, 0, 0, 0, 0, 0], 0x0C⟩ 0x3ED true) := rfl
theorem test_decode_cmdInfo5F : Sys2Proof.decode (.frame 0xA5015F0800000000000000000D 0x3ED true) =
    .ok (.cmdInfo5F ⟨0x01, #v[0, 0, 0, 0, 0, 0, 0, 0], 0x0D⟩ 0x3ED true) := rfl
theorem test_decode_cmdInfo60 : Sys2Proof.decode (.frame 0xA501600800000000000000000E 0x3ED true) =
    .ok (.cmdInfo60 ⟨0x01, #v[0, 0, 0, 0, 0, 0, 0, 0], 0x0E⟩ 0x3ED true) := rfl
theorem test_decode_cmdInfo61 : Sys2Proof.decode (.frame 0xA501610800000000000000000F 0x3ED true) =
    .ok (.cmdInfo61 ⟨0x01, #v[0, 0, 0, 0, 0, 0, 0, 0], 0x0F⟩ 0x3ED true) := rfl
theorem test_decode_cmdInfo62 : Sys2Proof.decode (.frame 0xA5016208000000000000000010 0x3ED true) =
    .ok (.cmdInfo62 ⟨0x01, #v[0, 0, 0, 0, 0, 0, 0, 0], 0x10⟩ 0x3ED true) := rfl
theorem test_decode_cmdInfo63 : Sys2Proof.decode (.frame 0xA5016308000000000000000011 0x3ED true) =
    .ok (.cmdInfo63 ⟨0x01, #v[0, 0, 0, 0, 0, 0, 0, 0], 0x11⟩ 0x3ED true) := rfl
theorem test_decode_cmdStatus90 : Sys2Proof.decode (.frame 0xA501900800000000000000003E 0x3ED true) =
    .ok (.cmdStatus90 ⟨0x01, #v[0, 0, 0, 0, 0, 0, 0, 0], 0x3E⟩ 0x3ED true) := rfl
theorem test_decode_cmdStatus91 : Sys2Proof.decode (.frame 0xA501910800000000000000003F 0x3ED true) =
    .ok (.cmdStatus91 ⟨0x01, #v[0, 0, 0, 0, 0, 0, 0, 0], 0x3F⟩ 0x3ED true) := rfl
theorem test_decode_cmdStatus92 : Sys2Proof.decode (.frame 0xA5019208000000000000000040 0x3ED true) =
    .ok (.cmdStatus92 ⟨0x01, #v[0, 0, 0, 0, 0, 0, 0, 0], 0x40⟩ 0x3ED true) := rfl
theorem test_decode_cmdStatus93 : Sys2Proof.decode (.frame 0xA5019308000000000000000041 0x3ED true) =
    .ok (.cmdStatus93 ⟨0x01, #v[0, 0, 0, 0, 0, 0, 0, 0], 0x41⟩ 0x3ED true) := rfl
theorem test_decode_cmdStatus94 : Sys2Proof.decode (.frame 0xA5019408000000000000000042 0x3ED true) =
    .ok (.cmdStatus94 ⟨0x01, #v[0, 0, 0, 0, 0, 0, 0, 0], 0x42⟩ 0x3ED true) := rfl
theorem test_decode_cmdStatus95 : Sys2Proof.decode (.frame 0xA5019508000000000000000043 0x3ED true) =
    .ok (.cmdStatus95 ⟨0x01, #v[0, 0, 0, 0, 0, 0, 0, 0], 0x43⟩ 0x3ED true) := rfl
theorem test_decode_cmdStatus96 : Sys2Proof.decode (.frame 0xA5019608000000000000000044 0x3ED true) =
    .ok (.cmdStatus96 ⟨0x01, #v[0, 0, 0, 0, 0, 0, 0, 0], 0x44⟩ 0x3ED true) := rfl
theorem test_decode_cmdStatus97 : Sys2Proof.decode (.frame 0xA5019708000000000000000045 0x3ED true) =
    .ok (.cmdStatus97 ⟨0x01, #v[0, 0, 0, 0, 0, 0, 0, 0], 0x45⟩ 0x3ED true) := rfl
theorem test_decode_cmdStatus98 : Sys2Proof.decode (.frame 0xA5019808000000000000000046 0x3ED true) =
    .ok (.cmdStatus98 ⟨0x01, #v[0, 0, 0, 0, 0, 0, 0, 0], 0x46⟩ 0x3ED true) := rfl
theorem test_decode_cmdDischargeMosfet : Sys2Proof.decode (.frame 0xA501D908000000000000000087 0x3ED true) =
    .ok (.cmdDischargeMosfet ⟨0x01, #v[0, 0, 0, 0, 0, 0, 0, 0], 0x87⟩ 0x3ED true) := rfl
theorem test_decode_cmdChargeMosfet : Sys2Proof.decode (.frame 0xA501DA08000000000000000088 0x3ED true) =
    .ok (.cmdChargeMosfet ⟨0x01, #v[0, 0, 0, 0, 0, 0, 0, 0], 0x88⟩ 0x3ED true) := rfl
theorem test_decode_fields : Sys2Proof.decode (.frame 0xA501900800C875300384000032 7 false) =
    .ok (.cmdStatus90 ⟨0x01, #v[0x00, 0xC8, 0x75, 0x30, 0x03, 0x84, 0x00, 0x00], 0x32⟩ 7 false) := rfl

theorem test_decode_checksum : Sys2Proof.decode (.op (port 0x01)) =
    .ok (.checksum frameR90) := rfl
theorem test_decode_encode : Sys2Proof.decode (.op (port 0x02)) =
    .ok (.encode 0x95 .host2dev #v[0x11, 0x22, 0x33, 0x44, 0x55, 0x66, 0x77, 0x88]) := rfl
theorem test_decode_decode : Sys2Proof.decode (.op (port 0x03)) =
    .ok (.decode frameR90) := rfl
theorem test_decode_validate : Sys2Proof.decode (.op (port 0x04)) =
    .ok (.validate frameR90 .host2dev) := rfl
theorem test_decode_getU8 : Sys2Proof.decode (.op (port 0x05)) =
    .ok (.getU8 frameR90 2) := rfl
theorem test_decode_getU16 : Sys2Proof.decode (.op (port 0x06)) =
    .ok (.getU16 frameR90 2) := rfl
theorem test_decode_getU32 : Sys2Proof.decode (.op (port 0x07)) =
    .ok (.getU32 frameR90 2) := rfl
theorem test_decode_getBit : Sys2Proof.decode (.op (port 0x08)) =
    .ok (.getBit frameR90 2 5) := rfl
theorem test_decode_getBitL : Sys2Proof.decode (.op (port 0x09)) =
    .ok (.getBitL frameR90 2) := rfl
theorem test_decode_decDeci : Sys2Proof.decode (.op (port 0x0A)) =
    .ok (.decDeci frameR90 2) := rfl
theorem test_decode_decMilli : Sys2Proof.decode (.op (port 0x0B)) =
    .ok (.decMilli frameR90 2) := rfl
theorem test_decode_decCurrent : Sys2Proof.decode (.op (port 0x0C)) =
    .ok (.decCurrent frameR90 2) := rfl
theorem test_decode_decTemp : Sys2Proof.decode (.op (port 0x0D)) =
    .ok (.decTemp frameR90 2) := rfl
theorem test_decode_decDuration : Sys2Proof.decode (.op (port 0x0E)) =
    .ok (.decDuration frameR90 2) := rfl
theorem test_decode_decBits : Sys2Proof.decode (.op (port 0x0F)) =
    .ok (.decBits frameR90 2) := rfl
theorem test_decode_rxPoll : Sys2Proof.decode (.op (port 0x10)) =
    .ok (.rxPoll 0x3ED true) := rfl
theorem test_decode_drain : Sys2Proof.decode (.op (port 0x11)) =
    .ok (.drain 0x3ED true) := rfl
theorem test_decode_txFrame : Sys2Proof.decode (.op (port 0x12)) =
    .ok (.txFrame frameR90 0x3ED true) := rfl
theorem test_decode_rxByte : Sys2Proof.decode (.op (port 0x13)) =
    .ok (.rxByte 0x5A 0x3ED true) := rfl
theorem test_decode_decTriple : Sys2Proof.decode (.op (port 0x14)) =
    .ok (.decTriple frameR90 2) := rfl
theorem test_decode_decScaled16 : Sys2Proof.decode (.op (port 0x15)) =
    .ok (.decScaled16 frameR90 2 0x3E8) := rfl
theorem test_decode_decScaled32 : Sys2Proof.decode (.op (port 0x16)) =
    .ok (.decScaled32 frameR90 2 0x3E8) := rfl
theorem test_decode_prepare : Sys2Proof.decode (.op (port 0x18)) =
    .ok (.prepare 0x95 #v[0x11, 0x22, 0x33, 0x44, 0x55, 0x66, 0x77, 0x88]) := rfl
theorem test_decode_route : Sys2Proof.decode (.op (port 0x19)) =
    .ok (.route frameR90 0x3ED true) := rfl
theorem test_decode_setValid : Sys2Proof.decode (.op (port 0x1A)) =
    .ok (.setValid 0x95 0x3ED) := rfl
theorem test_decode_isReq : Sys2Proof.decode (.op (port 0x1B)) =
    .ok (.isReq 0x95) := rfl
theorem test_decode_isValid : Sys2Proof.decode (.op (port 0x1C)) =
    .ok (.isValid 0x95) := rfl
theorem test_decode_lastValid : Sys2Proof.decode (.op (port 0x1D)) =
    .ok (.lastValid 0x95) := rfl
theorem test_decode_setCount : Sys2Proof.decode (.op (port 0x1E)) =
    .ok (.setCount 0x95 7) := rfl
theorem test_decode_process : Sys2Proof.decode (.op (port 0x1F)) =
    .ok (.process frameR90 0x3ED true) := rfl

/-- ROLE 0 is DEV2HOST and DECODE_OK 0 is false (R90): OPSEL alone. -/
theorem test_decode_role_zero : Sys2Proof.decode (.op { opsel := 0x04 }) = .ok (.validate (Vector.replicate 13 0) .dev2host) := rfl
theorem test_decode_ok_zero : Sys2Proof.decode (.op { opsel := 0x11, decodeOk := 0 }) = .ok (.drain 0 false) := rfl

/-- R94, R80, R89: what is refused, and by what name. -/
theorem test_decode_reserved_00 : Sys2Proof.decode (.op (port 0x00)) = .error (.reservedOpsel 0x00) := rfl
theorem test_decode_reserved_17 : Sys2Proof.decode (.op (port 0x17)) = .error (.reservedOpsel 0x17) := rfl
theorem test_decode_bad_start : Sys2Proof.decode (.frame 0xA401900800C875300384000031 0 true) = .error (.badStart 0xA4) := rfl
theorem test_decode_bad_length : Sys2Proof.decode (.frame 0xA501900700000000000000003D 0 true) = .error (.badLength 0x07) := rfl
theorem test_decode_unlisted : Sys2Proof.decode (.frame 0xA5017708000000000000000025 0 true) = .error (.unlistedCommand 0x77) := rfl

theorem test_table_frame : decodeTableWord 104 0xA5000008000000000000000000 = some (.cmdReset ⟨0, Vector.replicate 8 0, 0⟩ 0 true) := rfl
theorem test_table_op : decodeTableWord 8 0x1E = some (.setCount 0 0) := rfl
/-- R8, D12: DECODE_OK is 1 by default. -/
theorem test_table_decode_ok : decodeTableWord 8 0x11 = some (.drain 0 true) := rfl

/-! ### CODEC (V1 to V4) -/

theorem test_checksum_ignores_byte_12 : exec (.checksum frameR90x) start = .next (start.answer 104 0x32) := rfl
theorem test_checksum_drops_the_carry :
    exec (.checksum #v[0xA5, 0x01, 0x52, 0x08, 0, 0, 0, 0, 0, 0, 0, 0, 0]) start = .next (start.answer 104 0) := rfl
theorem test_encode_request : exec (.encode 0x90 .host2dev (Vector.replicate 8 0)) start =
    .next (start.answer 104 0xA540900800000000000000007D) := rfl
theorem test_encode_response : exec (.encode 0x91 .dev2host (payloadOf frameFA)) start =
    .next (start.answer 104 0xA5019108123456789ABCDEF077) := rfl
theorem test_decode_checks_nothing : exec (.decode frameR90x) start =
    .next (start.answer 80 0x019000C8753003840000) := rfl
theorem test_validate_response : exec (.validate frameR90 .dev2host) start = .next (start.answer 1 1) := rfl
theorem test_validate_length : exec (.validate frameL07 .dev2host) start = .next (start.answer 1 0) := rfl
theorem test_errMask : errMask testConfig frameR90 .host2dev = 0b0010 ∧ errMask testConfig frameR90x .dev2host = 0b1000 ∧
    errMask testConfig frameL07 .dev2host = 0b0100 := by decide +kernel
theorem test_getU8_last : exec (.getU8 frameFA 7) start = .next (start.answer 104 0xF0) := rfl
theorem test_getU8_outside : exec (.getU8 frameFA 8) start = .next (start.windowFault 1 0x0801) := rfl
theorem test_getU16_unaligned : exec (.getU16 frameFA 1) start = .next (start.answer 104 0x3456) := rfl
theorem test_getU16_outside : exec (.getU16 frameFA 7) start = .next (start.windowFault 1 0x0702) := rfl
theorem test_getU32_last : exec (.getU32 frameFA 4) start = .next (start.answer 104 0x9ABCDEF0) := rfl
theorem test_getU32_far_outside : exec (.getU32 frameFA 255) start = .next (start.windowFault 1 0xFF04) := rfl
theorem test_getBit : exec (.getBit frameFA 0 4) start = .next (start.answer 1 1) := rfl
theorem test_getBit_offset_first : exec (.getBit frameFA 8 8) start = .next (start.windowFault 1 0x0801) := rfl
theorem test_getBitL : exec (.getBitL frameFA 9) start = .next (start.answer 1 0) := rfl
theorem test_getBitL_outside : exec (.getBitL frameFA 64) start = .next (start.windowFault 3 0x0040) := rfl

/-! ### VALDEC (V5): `num` in 33 bits above `den` in 32 bits -/

theorem test_decDeci : exec (.decDeci frameD1 6) start = .next (start.answer 65 0xFFFF0000000A) := rfl
theorem test_decMilli : exec (.decMilli frameARR1 3) start = .next (start.answer 65 0x0CE5000003E8) := rfl
theorem test_decCurrent_below_zero : exec (.decCurrent frameD1 0) start =
    .next (start.answer 65 0x1FFFFFFFF0000000A) := rfl
theorem test_decCurrent_zero : exec (.decCurrent frameR90 2) start = .next (start.answer 65 10) := rfl
theorem test_decTemp_below_zero : exec (.decTemp frameD2 0) start = .next (start.answer 65 0x1FFFFFFD800000001) := rfl
theorem test_decTemp_highest : exec (.decTemp frameD2 3) start = .next (start.answer 65 0xD700000001) := rfl
theorem test_decDuration : exec (.decDuration frameD2 3) start = .next (start.answer 65 0x3BC400000001) := rfl
theorem test_decBits : exec (.decBits frameFA 7) start = .next (start.answer 8 0xF0) := rfl
theorem test_decTriple : exec (.decTriple frameD2 5) start = .next (start.answer 24 0x180B0A) := rfl
theorem test_decTriple_outside : exec (.decTriple frameD2 6) start = .next (start.windowFault 1 0x0603) := rfl
theorem test_decScaled16 : exec (.decScaled16 frameR90 4 100) start = .next (start.answer 65 0x038400000064) := rfl
theorem test_decScaled16_zero_divisor : exec (.decScaled16 frameR90 4 0) start = .next (start.refuse .badOperand) := rfl
theorem test_decScaled32 : exec (.decScaled32 frameFA 4 1000) start = .next (start.answer 65 0x9ABCDEF0000003E8) := rfl
theorem test_decScaled32_outside : exec (.decScaled32 frameFA 5 1000) start = .next (start.windowFault 1 0x0504) := rfl

/-! ### PARSER (V6, V14, V15, P1, P4, P6) -/

theorem test_rxByte_start : (after (exec (.rxByte 0xA5 0 true) start)).block.parserRegs =
    ((Vector.replicate 13 0).set 0 0xA5, .hdr, 1) := rfl
theorem test_rxByte_header_abort :
    let t := after (exec (.rxByte 0x08 0 true) (atByte start .hdr 3 frameQ90))
    (t.block.pstate, t.block.rxidx, t.evq) = (.wfs, 0, []) := rfl
theorem test_rxPoll_empty : exec (.rxPoll 0 true) start = .next (start.answer 1 0) := rfl
theorem test_rxPoll_oldest_byte :
    let t := after (exec (.rxPoll 0 true) (withRxq start [0xA5, 0x01]))
    (t.rxq, t.block.pstate, t.block.rxidx) = ([0x01], .hdr, 1) := rfl
theorem test_drain_counts : exec (.drain 0 true) (withRxq start [0x00, 0xFF, 0x13]) = .next (start.answer 104 3) := rfl
/-- V14: with HDR_CHECK_AT = 2 the false header is left after two bytes and R90 is received. -/
theorem test_drain_early_check :
    (after (exec (.drain 9 true)
      (withRxq (State.resetWith { testConfig with hdrCheck := .afterAddress }) ([0xA5, 0x77] ++ frameR90.toList)))).evq =
      [.receive frameR90, .accept 0x90 1 (payloadOf frameR90) true, .complete 0x90 9] := rfl
theorem test_txFrame_failed_write : exec (.txFrame frameQ90 0 true) { start with txok := [false] } =
    .next (State.answer { start with evq := [.transmit frameQ90], wire := [frameQ90], draws := 1 } 1 0) := rfl
/-- R70, R147: bytes appended during a DRAIN come after those of RXQ, and the last one is taken with the levels of its own
moment. -/
theorem test_drain_with_a_link_that_acts :
    (after (exec (.drain 1 true) { withRxq start (frameR90.toList.take 12) with
      script := [{ rx := [0x32], now := some 5 }, { now := some 9, decodeOk := some false }] })).evq =
      [.receive frameR90, .accept 0x90 1 (payloadOf frameR90) true, .decodeFail 0x90 1] := rfl
/-- P4: a false start byte swallows a good frame; here met by the turnaround read of TXFRAME. -/
theorem test_txFrame_turnaround :
    (after (exec (.txFrame frameQ90 0 true) (withRxq start ([0xA5, 0x01, 0x00] ++ frameR90.toList)))).evq =
      [.transmit frameQ90,
       .error #v[0xA5, 0x01, 0x00, 0xA5, 0x01, 0x90, 0x08, 0x00, 0xC8, 0x75, 0x30, 0x03, 0x84]] := rfl

/-! ### FRAME13 rows: received, then routed (V6, V7, P6) -/

theorem test_cmdStatus90_completes :
    (after (exec (.cmdStatus90 ⟨0x01, payloadOf frameR90, 0x32⟩ 1005 true) start)).evq =
      [.receive frameR90, .accept 0x90 1 (payloadOf frameR90) true, .complete 0x90 1005] := rfl
/-- A cycle begun at one NOW and a decode failure in the same step. -/
theorem test_cmdStatus90_decode_failure :
    (after (exec (.cmdStatus90 ⟨0x01, payloadOf frameR90, 0x32⟩ 1005 false) start)).evq.map Event.tag = [2, 6, 7] := rfl
theorem test_cmdStatus90_bad_checksum :
    (after (exec (.cmdStatus90 ⟨0x01, payloadOf frameR90, 0x33⟩ 0 true) start)).evq = [.error frameR90x] := rfl
theorem test_cmdInfo62_first_of_two : (after (exec (.cmdInfo62 ⟨0x01, payloadOf frameSTR1, 0x20⟩ 0 true) start)).evq =
    [.receive frameSTR1, .accept 0x62 1 (payloadOf frameSTR1) false] := rfl
theorem test_cmdStatus95_without_count : (after (exec (.cmdStatus95 ⟨0x01, payloadOf frameARR1, 0x17⟩ 0 true) start)).evq =
    [.receive frameARR1, .reject 0x95 .excess 1] := rfl
theorem test_cmdInfo60_unrouted : (after (exec (.cmdInfo60 ⟨0x01, Vector.replicate 8 0, 0x0E⟩ 0 true) start)).evq =
    [.receive frameNR60, .unrouted 0x60 frameNR60] := by decide +kernel

/-! ### SEQUENCER (V7, V8, V10 to V13, P3) -/

theorem test_prepare_clears :
    let s := start.setRow 0x62 { rxcnt := 2, valid := true, vtime := 77, blocked := true }
    (after (exec (.prepare 0x62 (Vector.replicate 8 0)) s)).row 0x62 = { valid := true, vtime := 77 } := rfl
theorem test_prepare_request : exec (.prepare 0x90 (Vector.replicate 8 0)) start =
    .next ((start.setRow 0x90 {}).answer 104 0xA540900800000000000000007D) := rfl
theorem test_route_second_before_first :
    let t := after (exec (.route frameSTR2 0 true) start)
    (t.evq, t.row 0x62) = ([.reject 0x62 .sequence 1], { rxcnt := 1 }) := rfl
theorem test_route_unrouted : (after (exec (.route frameNR60 0 true) start)).evq = [.unrouted 0x60 frameNR60] := rfl
theorem test_process_last_array_frame :
    let s := start.setRow 0x95 { rxcnt := 2, itemCount := 7 }
    let t := after (exec (.process frameARR3 10 true) s)
    (t.evq, t.row 0x95) = ([.accept 0x95 3 (payloadOf frameARR3) true], { valid := true, vtime := 10, itemCount := 7 }) := rfl
theorem test_process_decode_failure :
    let s := start.setRow 0x62 { valid := true, vtime := 77 }
    let t := after (exec (.process frameSTR1 0 false) s)
    (t.evq, t.row 0x62) = ([.accept 0x62 1 (payloadOf frameSTR1) false, .decodeFail 0x62 1],
      { rxcnt := 1, vtime := 77, blocked := true }) := rfl
theorem test_setValid : (after (exec (.setValid 0x62 99) (start.setRow 0x62 { rxcnt := 1, blocked := true }))).row 0x62 =
    { valid := true, vtime := 99, blocked := true } := rfl
theorem test_isReq_without_count : exec (.isReq 0x95) start = .next (start.answer 1 0) := rfl
theorem test_isReq_single : exec (.isReq 0x90) start = .next (start.answer 1 1) := rfl
theorem test_isValid_absent : exec (.isValid 0x60) start = .next (start.refuse .notPresent) := rfl
theorem test_isValid : let s := start.setRow 0x62 { valid := true, vtime := 77 }
    exec (.isValid 0x62) s = .next (s.answer 1 1) := rfl
theorem test_lastValid : let s := start.setRow 0x62 { vtime := 77 }
    exec (.lastValid 0x62) s = .next (s.answer 104 77) := rfl
theorem test_setCount_single : exec (.setCount 0x90 4) start = .next (start.refuse .badOperand) := rfl
theorem test_setCount_array : (after (exec (.setCount 0x95 7) start)).row 0x95 = { itemCount := 7 } := rfl

/-- V13: the expected counts with 3 items a frame. -/
theorem test_expected : [0, 1, 3, 4, 7, 16, 48, 255].map (expected (.array ⟨3, by decide⟩)) = [0, 1, 1, 2, 3, 6, 16, 85] := rfl
/-- V11: the counter saturates. -/
theorem test_count_saturates : (after (exec (.route frameSTR1 0 true) (start.setRow 0x62 { rxcnt := 65535 }))).evq =
    [.reject 0x62 .excess 65535] := rfl

/-! ### Step, faults, pseudo-operations (V12, S4, P5) -/

theorem test_step_runs_the_fetched_word : (after (step (start.withFetchWord 104 0xA501900800C875300384000032))).evq =
    [.receive frameR90, .accept 0x90 1 (payloadOf frameR90) true, .complete 0x90 0] := rfl
theorem test_step_reserved_opsel : step (start.withFetchWord 8 0x17) = .next (start.refuse .illegalOp) := rfl
theorem test_faulted_rxPoll : exec (.rxPoll 0 true) (faulted (withRxq start [0xA5])) =
    .next ((faulted (withRxq start [0xA5])).refuse .faulted) := rfl
theorem test_reset_clears_the_fault :
    let t := after (step { faulted start with inbox := [.reset] })
    (t.block.fault, t.block.faultcode, t.block.faultinfo) = (false, 0, 0) := rfl
theorem test_read_not_requestable : (after (readCmd 0x95 0 true start)).wire = [] := rfl
/-- P1: READ 0x90 sends Q90. -/
theorem test_read_sends : (after (readCmd 0x90 0 true start)).wire = [frameQ90] := rfl
/-- R98, R232: PUMP ends at a refused DRAIN; the link's next bytes are not taken. -/
theorem test_pump_faulted :
    (after (pump [(1, true), (2, true)] 0x90
      { faulted start with inbox := [.linkRx [0xA5], .linkRx [0x01]] })).inbox = [.linkRx [0x01]] := rfl
/-- R98: PUMP with two arrivals ends when `Complete` is seen, stamped with the NOW of its own DRAIN. -/
theorem test_pump_completes :
    (after (pump [(1, true), (2, true), (3, true)] 0x90
      { start with inbox := [.linkRx (frameR90.toList.take 6), .linkRx (frameR90.toList.drop 6)] })).evq =
      [.receive frameR90, .accept 0x90 1 (payloadOf frameR90) true, .complete 0x90 2] := rfl
/-- S4: the frame of SWITCH 0xD9, on. -/
theorem test_switch_payload :
    encodeFrame testConfig 0xD9 .host2dev #v[1, 0, 0, 0, 0, 0, 0, 0] =
      #v[0xA5, 0x40, 0xD9, 0x08, 1, 0, 0, 0, 0, 0, 0, 0, 0xC7] := rfl


/-! ### Witnesses: the hypotheses of each statement of Obligations.lean that has any, clause by clause -/

/-- RXBYTE of 0x75 as the next action. -/
def rxByteInput : Input := .instr (.op { opsel := 0x13, byte := 0x75, decodeOk := 1 })

/-- Six bytes of R90 received, a cycle of 0x62 blocked, a byte about to arrive. -/
def midway : State :=
  { atByte (start.setRow 0x62 { rxcnt := 1, vtime := 77, blocked := true }) .cnt 6 frameR90 with inbox := [rxByteInput] }

theorem rowOk_default (fam : Option Family) : RowOk fam {} := by
  cases fam with
  | none => rfl
  | some fam => cases fam <;> simp [RowOk]

theorem midway_inv : Invariant midway where
  parser := And.intro (by decide) (by decide)
  buffer := And.intro (fun _ => rfl) (fun _ _ => by decide +kernel)
  faultRegs := And.intro (fun _ => ⟨rfl, rfl⟩) (fun h => absurd h (by decide))
  rows c := by
    by_cases h : c = 0x62
    · subst h; exact rfl
    · have : midway.row c = {} := by
        show (start.setRow 0x62 _).row c = {}
        simp only [State.row_setRow, h]
        simp [start, State.resetWith, State.row, Block.row, Block.reset]
      rw [this]
      exact rowOk_default _

theorem witness_EncodeOfDecodedFrameIsTheWord : Sys2Proof.decode (.frame 0xA540900800000000000000007D 5 false) =
    .ok (.cmdStatus90 ⟨0x40, #v[0, 0, 0, 0, 0, 0, 0, 0], 0x7D⟩ 5 false) := rfl
theorem witness_StepRunsTheDecodedInstruction : midway.inbox = [rxByteInput] ∧
    Sys2Proof.decode (.op { opsel := 0x13, byte := 0x75, decodeOk := 1 }) = .ok (.rxByte 0x75 0 true) := ⟨rfl, rfl⟩
theorem witness_ReservedOpselIsRefused :
    (start.withFetchWord 8 0x00).Good ∧ (start.withFetchWord 8 0x00).inbox = [.instr (.op { opsel := 0x00 })] ∧
      (start.withFetchWord 8 0x17).inbox = [.instr (.op { opsel := 0x17 })] := ⟨rfl, rfl, rfl⟩
theorem witness_UnlistedFrameIsReceivedByteByByte :
    let s := start.withFetchWord 104 0xA5017708000000000000000025
    s.Good ∧ s.block.ParserOk ∧ s.inbox = [.instr (.frame 0xA5017708000000000000000025 0 true)] ∧
      Sys2Proof.decode (.frame 0xA5017708000000000000000025 0 true) = .error (.unlistedCommand 0x77) := ⟨rfl, rfl, rfl, rfl⟩
theorem witness_IdleStepAndLinkBytes : start.inbox = [] ∧
    ({ start with inbox := [.linkRx [0xA5, 0x01]] } : State).inbox = .linkRx [0xA5, 0x01] :: [] := ⟨rfl, rfl⟩
theorem witness_ResetPulseLeavesTheResetState :
    ({ faulted midway with inbox := [.reset] } : State).inbox = .reset :: [] := rfl
theorem witness_EveryStepKeepsTheInvariant : Invariant midway ∧ ∃ t, step midway = .next t := ⟨midway_inv, _, rfl⟩
theorem witness_StepNeverChangesTheConfiguration : ∃ t, step midway = .next t := ⟨_, rfl⟩
theorem witness_InvariantStateAlwaysSteps : Invariant midway := midway_inv
/-- The second clause: a row's word, a reserved OPSEL, a frame word of no row. -/
theorem witness_EveryOperationIsRefusedWhileFaulted : (faulted start).block.fault = true ∧
    ∀ e ∈ [Encoded.op { opsel := 0x10 }, .op { opsel := 0x17 }, .frame 0xA5017708000000000000000025 0 true],
      ({ faulted start with inbox := [.instr e] } : State).inbox = .instr e :: [] := ⟨rfl, fun _ _ => rfl⟩
theorem witness_WindowFaultChangesNothingElse :
    start.Good ∧ exec (.getU16 frameFA 7) start = .next (start.windowFault 1 0x0702) ∧
      (start.windowFault 1 0x0702).block.fault = true := ⟨rfl, rfl, rfl⟩
theorem witness_WellFormedInstructionRaisesNoFault :
    (Instr.getU16 frameFA 6).wellFormed = true ∧ exec (.getU16 frameFA 6) start = .next (start.answer 104 0xDEF0) :=
  ⟨rfl, rfl⟩
theorem witness_OnlyDecodeFailureClearsValid :
    let s := start.setRow 0x62 { valid := true }
    let t := after (exec (.process frameSTR1 0 false) s)
    exec (.process frameSTR1 0 false) s = .next t ∧ (s.row 0x62).valid = true ∧ (t.row 0x62).valid = false := ⟨rfl, rfl, rfl⟩
theorem witness_RowChangesOnlyForItsCommand :
    let t := after (exec (.process frameSTR1 0 true) start)
    exec (.process frameSTR1 0 true) start = .next t ∧ t.row 0x62 ≠ start.row 0x62 := ⟨rfl, by decide +kernel⟩
theorem witness_BlockedCommandAcceptsNothingUntilPrepare :
    (midway.row 0x62).blocked = true ∧ ¬ IsPrepareOf 0x62 (.process frameSTR1 0 true) ∧
      ∃ t, exec (.process frameSTR1 0 true) midway = .next t :=
  ⟨rfl, fun ⟨_, h⟩ => Instr.noConfusion h, _, rfl⟩
theorem witness_CodecAndDecodersKeepParserAndDescriptors :
    IsCodecOrValdec (.getU16 frameFA 7) = true ∧ ∃ t, exec (.getU16 frameFA 7) midway = .next t := ⟨rfl, _, rfl⟩
theorem witness_ChecksumAnswersTheSumModulo256 : midway.Good := rfl
theorem witness_EncodeBuildsTheFrame : midway.Good := rfl
theorem witness_DecodeAnswersAddressCommandPayload : midway.Good := rfl
theorem witness_ValidateAnswersTheFourTests : midway.Good := rfl
theorem witness_AccessorsReadTheWindowBigEndian :
    midway.Good ∧ (7 : Byte).toNat + 1 ≤ 8 ∧ (6 : Byte).toNat + 2 ≤ 8 ∧ (4 : Byte).toNat + 4 ≤ 8 ∧ (0 : Byte).toNat + 4 ≤ 8 := by
  decide
theorem witness_BitAccessorsReadOneBit : midway.Good ∧ (7 : Byte).toNat ≤ 7 ∧ (0 : Byte).toNat ≤ 7 ∧ (63 : Byte).toNat ≤ 63 := by
  decide
theorem witness_AccessOutsideTheWindowRaisesWindowFault :
    midway.Good ∧ (8 : Byte).toNat + 1 > 8 ∧ (7 : Byte).toNat + 2 > 8 ∧ (6 : Byte).toNat + 3 > 8 ∧ (5 : Byte).toNat + 4 > 8 ∧
      (1 : BitVec 32) ≠ 0 ∧ (7 : Byte).toNat ≤ 7 ∧ (8 : Byte).toNat > 7 ∧ (64 : Byte).toNat > 63 ∧ (255 : Byte).toNat > 63 := by
  decide
theorem witness_EncodeAndDecodeAreInverseOnValidFrames : validate testConfig frameR90 .dev2host = true := rfl
/-- Byte 0 changed, and byte 11 changed. -/
theorem witness_OneChangedByteInvalidatesTheFrame :
    validate testConfig frameR90 .dev2host = true ∧
      (∀ g ∈ [(0, frameR90.set 0 0xA4), (11, frameR90.set 11 1)],
        frameR90[g.1]? ≠ g.2[g.1]? ∧ ∀ k ∈ List.range 13, k ≠ g.1 → frameR90[k]? = g.2[k]?) := by decide +kernel
theorem witness_DecodersAnswerExactRationals : midway.Good ∧ (6 : Byte).toNat + 2 ≤ 8 ∧ (7 : Byte).toNat + 1 ≤ 8 := by decide
theorem witness_TripleAndScaledDecodersAnswer :
    midway.Good ∧ (5 : Byte).toNat + 3 ≤ 8 ∧ (6 : Byte).toNat + 2 ≤ 8 ∧ (4 : Byte).toNat + 4 ≤ 8 ∧ (0xFFFFFFFF : BitVec 32) ≠ 0 := by
  decide
theorem witness_RxByteWhileWaitingForStart :
    start.Good ∧ start.block.pstate = .wfs ∧ (0xA5 : Byte) = start.cfg.startByte ∧ (0x00 : Byte) ≠ start.cfg.startByte := by
  decide
/-- The three clauses: the header of Q90 at its last byte, that of R90 at its last byte, that of R90 before it. -/
theorem witness_RxByteInTheHeader :
    let s := atByte start .hdr 3 frameQ90
    let t := atByte start .hdr 3 frameR90
    let u := atByte start .hdr 2 frameR90
    (s.Good ∧ s.block.pstate = .hdr ∧ s.block.rxidx.toNat < 13 ∧ s.block.rxidx.toNat + 1 = 4 ∧
      ¬ (s.block.rxbuf.set 3 0x08)[1].toNat ≤ s.cfg.rxAddrMax.toNat) ∧
    (t.Good ∧ t.block.pstate = .hdr ∧ t.block.rxidx.toNat + 1 = 4 ∧
      t.cfg.rxAddrMin.toNat ≤ (t.block.rxbuf.set 3 0x08)[1].toNat ∧
      (t.block.rxbuf.set 3 0x08)[1].toNat ≤ t.cfg.rxAddrMax.toNat) ∧
    (u.Good ∧ u.block.pstate = .hdr ∧ u.block.rxidx.toNat + 1 ≠ 4) := by decide +kernel
/-- The three clauses: a byte inside, and the last byte of R90x and of R90. -/
theorem witness_RxByteInTheContent :
    let s := atByte start .cnt 11 frameR90
    let t := atByte start .cnt 12 frameR90
    (s.Good ∧ s.block.pstate = .cnt ∧ s.block.rxidx.toNat + 1 < 13) ∧
    (t.Good ∧ t.block.pstate = .cnt ∧ t.block.rxidx.toNat + 1 = 13 ∧
      validate t.cfg (t.block.rxbuf.set 12 0x33) .dev2host = false ∧
      validate t.cfg (t.block.rxbuf.set 12 0x32) .dev2host = true) := by decide +kernel
theorem witness_UnreachableIndexIsStuck :
    let s := atByte start .cnt 13 frameR90
    s.Good ∧ s.block.pstate ≠ .wfs ∧ 13 ≤ s.block.rxidx.toNat := by decide +kernel
theorem witness_RxPollTakesTheOldestByte : start.Good ∧ start.rxq = [] ∧
    (withRxq midway [0x75, 0x30]).rxq = 0x75 :: [0x30] ∧ (withRxq midway [0x75, 0x30]).block.ParserOk :=
  ⟨rfl, rfl, rfl, midway_inv.parser⟩
theorem witness_DrainReceivesTheQueueInOrder :
    let s := withRxq midway [0x75, 0x30]
    s.Good ∧ s.block.ParserOk ∧ s.script = [] := ⟨rfl, midway_inv.parser, rfl⟩
/-- A link that appends during the DRAIN and pins that move: two turns are taken, the third of the script is not. -/
theorem witness_DrainEndsAtTheFirstEmptyPoll :
    let s := { withRxq midway [0x75] with
      script := [{ rx := [0x30], now := some 7 }, { decodeOk := some false }, { rx := [0x03] }] }
    s.Good ∧ s.block.ParserOk ∧ (after (exec (.drain 0 true) s)).script = [{ rx := [0x03] }] := ⟨rfl, midway_inv.parser, rfl⟩
theorem witness_TxFrameTransmitsThenDrains :
    let s := { midway with txok := [true] }
    s.Good ∧ s.block.ParserOk ∧ s.txok = true :: [] := ⟨rfl, midway_inv.parser, rfl⟩
theorem witness_FrameIsThirteenRxBytes :
    frameOf (.cmdStatus90 ⟨0x01, payloadOf frameR90, 0x32⟩ 5 true) = some (frameR90, 5, true) ∧ midway.Good ∧ midway.block.ParserOk :=
  ⟨rfl, rfl, midway_inv.parser⟩
theorem witness_ValidFrameIsReceivedAndRouted :
    frameOf (.cmdStatus90 ⟨0x01, payloadOf frameR90, 0x32⟩ 5 true) = some (frameR90, 5, true) ∧ start.Good ∧ start.block.pstate = .wfs ∧
      start.block.rxidx = 0 ∧ validate start.cfg frameR90 .dev2host = true ∧
      start.cfg.rxAddrMin.toNat ≤ frameR90[1].toNat ∧ frameR90[1].toNat ≤ start.cfg.rxAddrMax.toNat := by decide +kernel
theorem witness_InvalidFrameIsAnError :
    frameOf (.cmdStatus90 ⟨0x01, payloadOf frameR90, 0x33⟩ 5 true) = some (frameR90x, 5, true) ∧ start.Good ∧
      start.block.pstate = .wfs ∧ start.block.rxidx = 0 ∧ frameR90x[0] = start.cfg.startByte ∧ validate start.cfg frameR90x .dev2host = false ∧
      start.cfg.rxAddrMin.toNat ≤ frameR90x[1].toNat ∧ frameR90x[1].toNat ≤ start.cfg.rxAddrMax.toNat := by decide +kernel
theorem witness_FrameOfAnotherParticipantIsDropped :
    frameOf (.cmdStatus90 ⟨0x40, Vector.replicate 8 0, 0x7D⟩ 5 true) = some (frameQ90, 5, true) ∧ start.Good ∧
      start.block.pstate = .wfs ∧ start.block.rxidx = 0 ∧ frameQ90[0] = start.cfg.startByte ∧ start.cfg.hdrCheck = .afterHeader ∧ start.cfg.rxAddrMax.toNat < frameQ90[1].toNat ∧
      (∀ b ∈ frameQ90.toList.drop 4, b ≠ start.cfg.startByte) := by decide +kernel
theorem witness_NoiseWithoutStartByteLeavesNoTrace :
    let s := withRxq start [0x00, 0xFF, 0x13]
    s.Good ∧ s.block.pstate = .wfs ∧ s.script = [] ∧ s.cfg.startByte ∉ s.rxq := by decide
theorem witness_ParserDependsOnTheBytesOnly :
    let u := withRxq (midway.setRow 0x90 { valid := true }) [0x75, 0x30]
    midway.Good ∧ u.Good ∧ midway.block.ParserOk ∧ midway.cfg = u.cfg ∧ midway.block.parserRegs = u.block.parserRegs ∧
      u.script = [] ∧ u.rxq = [((0x75 : Byte), (5 : Time), true), (0x30, 6, false)].map Prod.fst :=
  ⟨rfl, rfl, midway_inv.parser, rfl, rfl, rfl, rfl⟩
theorem witness_RxByteEmitsOneOfTheListedOrders :
    let s := atByte start .cnt 12 frameR90
    s.Good ∧ ∃ t, exec (.rxByte 0x32 0 true) s = .next t := ⟨rfl, _, rfl⟩
theorem witness_AbsentCommandIsRefused : start.Good ∧ start.desc 0x60 = none ∧ frameNR60[2] = 0x60 := ⟨rfl, rfl, rfl⟩
theorem witness_PrepareBuildsTheRequestAndClearsTheCycle : midway.Good ∧ midway.desc 0x90 = some .single := ⟨rfl, rfl⟩
theorem witness_SetValidStampsTheTime : midway.Good ∧ midway.desc 0x90 = some .single := ⟨rfl, rfl⟩
theorem witness_QueriesAnswerTheRow : midway.Good ∧ midway.desc 0x95 = some (.array ⟨3, by decide⟩) := ⟨rfl, rfl⟩
theorem witness_SetCountWritesArrayRowsOnly : midway.Good ∧ midway.desc 0x95 = some (.array ⟨3, by decide⟩) ∧
    midway.desc 0x90 = some .single ∧ midway.desc 0x62 = some (.seq ⟨2, by decide⟩) := ⟨rfl, rfl, rfl, rfl⟩
/-- A frame without a descriptor; one that completes its cycle; one that does not. -/
theorem witness_RouteProcessesOrLogs : start.Good ∧ start.desc frameNR60[2] = none ∧ start.desc frameR90[2] = some .single ∧
    NextExpected start .single frameR90 ∧ countAfter start frameR90[2] = expectedCount start frameR90[2] .single ∧
    start.desc frameSTR1[2] = some (.seq ⟨2, by decide⟩) ∧
    countAfter start frameSTR1[2] ≠ expectedCount start frameSTR1[2] (.seq ⟨2, by decide⟩) :=
  ⟨rfl, rfl, rfl, And.intro rfl (And.intro (by decide +kernel) trivial), rfl, rfl, by decide +kernel⟩
/-- The three clauses: a blocked command; more frames than expected; the wrong sequence byte. -/
theorem witness_ProcessRejectsAndCounts :
    let fam : Family := .seq ⟨2, by decide⟩
    let s := start.setRow 0x62 { rxcnt := 2 }
    start.Good ∧ midway.Good ∧ s.Good ∧ start.desc frameSTR2[2] = some fam ∧ (midway.row frameSTR2[2]).blocked = true ∧
      ((s.row frameSTR2[2]).blocked = false ∧ countAfter s frameSTR2[2] > expectedCount s frameSTR2[2] fam) ∧
      ((start.row frameSTR2[2]).blocked = false ∧ countAfter start frameSTR2[2] ≤ expectedCount start frameSTR2[2] fam ∧
        ¬ SeqAccepts start.cfg (seqNumber start frameSTR2) (countAfter start frameSTR2[2])
          (expectedCount start frameSTR2[2] fam) fam) :=
  ⟨rfl, rfl, rfl, rfl, rfl, ⟨rfl, by decide +kernel⟩, rfl, by decide +kernel,
    show ¬ seqNumber start frameSTR2 = countAfter start frameSTR2[2] by decide +kernel⟩
theorem witness_ProcessAcceptsTheNextFrame :
    let fam : Family := .seq ⟨2, by decide⟩
    start.Good ∧ start.desc frameSTR1[2] = some fam ∧ NextExpected start fam frameSTR1 ∧
      countAfter start frameSTR1[2] ≠ expectedCount start frameSTR1[2] fam :=
  ⟨rfl, rfl, And.intro rfl (And.intro (by decide +kernel) rfl), by decide +kernel⟩
theorem witness_ProcessCompletesOnTheLastFrame :
    let fam : Family := .array ⟨3, by decide⟩
    let s := start.setRow 0x95 { rxcnt := 2, itemCount := 7 }
    s.Good ∧ s.desc frameARR3[2] = some fam ∧ NextExpected s fam frameARR3 ∧
      countAfter s frameARR3[2] = expectedCount s frameARR3[2] fam :=
  ⟨rfl, rfl, And.intro rfl (And.intro (by decide +kernel)
    (And.intro (by decide +kernel) (And.intro (by decide +kernel) (Or.inl rfl)))), by decide +kernel⟩
theorem witness_DecodeFailureBlocksTheCycle :
    let fam : Family := .seq ⟨2, by decide⟩
    start.Good ∧ start.desc frameSTR1[2] = some fam ∧ NextExpected start fam frameSTR1 :=
  ⟨rfl, rfl, And.intro rfl (And.intro (by decide +kernel) rfl)⟩
theorem witness_InOrderFramesCompleteOnTheLast :
    let fam : Family := .seq ⟨2, by decide⟩
    let fs := [frameSTR1, frameSTR2]
    start.Good ∧ start.desc 0x62 = some fam ∧ (∃ n, fam = .seq n) ∧ (start.row 0x62).rxcnt = 0 ∧
      (start.row 0x62).blocked = false ∧ fs.length = expectedCount start 0x62 fam ∧ fs ≠ [] ∧
      ∀ (j : Nat) (hj : j < fs.length), fs[j][2] = 0x62 ∧ seqNumber start fs[j] = j + 1 :=
  ⟨rfl, rfl, ⟨_, rfl⟩, rfl, rfl, rfl, List.cons_ne_nil _ _, by decide +kernel⟩
theorem witness_InOrderFramesCompleteOnTheLast_array :
    let fam : Family := .array ⟨3, by decide⟩
    let s := start.setRow 0x95 { itemCount := 7 }
    let fs := [frameARR1, frameARR2, frameARR3]
    s.Good ∧ s.desc 0x95 = some fam ∧ ((∃ per, fam = .array per) ∧ s.cfg.arrayOrderStrict = true) ∧
      (s.row 0x95).rxcnt = 0 ∧ (s.row 0x95).blocked = false ∧ fs.length = expectedCount s 0x95 fam ∧ fs ≠ [] ∧
      ∀ (j : Nat) (hj : j < fs.length), fs[j][2] = 0x95 ∧ seqNumber s fs[j] = j + 1 :=
  ⟨rfl, rfl, ⟨⟨_, rfl⟩, rfl⟩, rfl, rfl, rfl, List.cons_ne_nil _ _, by decide +kernel⟩
/-- An absent command; an ARRAY command without a count; a command that can be requested. -/
theorem witness_RequestSendsOnlyRequestableCommands : start.Good ∧ start.desc 0x60 = none ∧
    (start.desc 0x95 = some (.array ⟨3, by decide⟩) ∧ (start.row 0x95).itemCount = 0) ∧
    start.desc 0x90 = some .single ∧ ∀ per, Family.single = .array per → (start.row 0x90).itemCount ≠ 0 :=
  ⟨rfl, rfl, ⟨rfl, rfl⟩, rfl, fun _ h => Family.noConfusion h⟩

/-! ### Every FRAME13 row -/

/-- The zero-payload response frame of every row (V2): received and, with no descriptor, unrouted (R173). -/
theorem test_every_row_is_received :
    ∀ x ∈ [((0x00 : Byte), Instr.cmdReset ⟨0x01, Vector.replicate 8 0, 0xAE⟩ 0 true),
       (0x50, .cmdInfo50 ⟨0x01, Vector.replicate 8 0, 0xFE⟩ 0 true),
       (0x51, .cmdInfo51 ⟨0x01, Vector.replicate 8 0, 0xFF⟩ 0 true),
       (0x52, .cmdInfo52 ⟨0x01, Vector.replicate 8 0, 0x00⟩ 0 true),
       (0x53, .cmdInfo53 ⟨0x01, Vector.replicate 8 0, 0x01⟩ 0 true),
       (0x54, .cmdInfo54 ⟨0x01, Vector.replicate 8 0, 0x02⟩ 0 true),
       (0x55, .cmdInfo55 ⟨0x01, Vector.replicate 8 0, 0x03⟩ 0 true),
       (0x56, .cmdInfo56 ⟨0x01, Vector.replicate 8 0, 0x04⟩ 0 true),
       (0x57, .cmdInfo57 ⟨0x01, Vector.replicate 8 0, 0x05⟩ 0 true),
       (0x58, .cmdInfo58 ⟨0x01, Vector.replicate 8 0, 0x06⟩ 0 true),
       (0x59, .cmdInfo59 ⟨0x01, Vector.replicate 8 0, 0x07⟩ 0 true),
       (0x5A, .cmdInfo5A ⟨0x01, Vector.replicate 8 0, 0x08⟩ 0 true),
       (0x5B, .cmdInfo5B ⟨0x01, Vector.replicate 8 0, 0x09⟩ 0 true),
       (0x5C, .cmdInfo5C ⟨0x01, Vector.replicate 8 0, 0x0A⟩ 0 true),
       (0x5D, .cmdInfo5D ⟨0x01, Vector.replicate 8 0, 0x0B⟩ 0 true),
       (0x5E, .cmdInfo5E ⟨0x01, Vector.replicate 8 0, 0x0C⟩ 0 true),
       (0x5F, .cmdInfo5F ⟨0x01, Vector.replicate 8 0, 0x0D⟩ 0 true),
       (0x60, .cmdInfo60 ⟨0x01, Vector.replicate 8 0, 0x0E⟩ 0 true),
       (0x61, .cmdInfo61 ⟨0x01, Vector.replicate 8 0, 0x0F⟩ 0 true),
       (0x62, .cmdInfo62 ⟨0x01, Vector.replicate 8 0, 0x10⟩ 0 true),
       (0x63, .cmdInfo63 ⟨0x01, Vector.replicate 8 0, 0x11⟩ 0 true),
       (0x90, .cmdStatus90 ⟨0x01, Vector.replicate 8 0, 0x3E⟩ 0 true),
       (0x91, .cmdStatus91 ⟨0x01, Vector.replicate 8 0, 0x3F⟩ 0 true),
       (0x92, .cmdStatus92 ⟨0x01, Vector.replicate 8 0, 0x40⟩ 0 true),
       (0x93, .cmdStatus93 ⟨0x01, Vector.replicate 8 0, 0x41⟩ 0 true),
       (0x94, .cmdStatus94 ⟨0x01, Vector.replicate 8 0, 0x42⟩ 0 true),
       (0x95, .cmdStatus95 ⟨0x01, Vector.replicate 8 0, 0x43⟩ 0 true),
       (0x96, .cmdStatus96 ⟨0x01, Vector.replicate 8 0, 0x44⟩ 0 true),
       (0x97, .cmdStatus97 ⟨0x01, Vector.replicate 8 0, 0x45⟩ 0 true),
       (0x98, .cmdStatus98 ⟨0x01, Vector.replicate 8 0, 0x46⟩ 0 true),
       (0xD9, .cmdDischargeMosfet ⟨0x01, Vector.replicate 8 0, 0x87⟩ 0 true),
       (0xDA, .cmdChargeMosfet ⟨0x01, Vector.replicate 8 0, 0x88⟩ 0 true)],
      (after (exec x.2 State.reset)).evq.map Event.tag = [2, 4] := by decide +kernel


end Sys2Proof.Tests
end

/-! Proofs for spec/00_scope.md: what a step does with the first action of the inbox. -/

namespace Sys2Proof.Machine

/-- The step takes an instruction word from the inbox and executes it there (log entry 7). -/
theorem step_of_instr {s : State} {e : Encoded} {rest : List Input} (hin : s.inbox = .instr e :: rest) :
    step s = stepWord e { s with inbox := rest } := by
  simp only [step, hin]

/-- A word that the table holds runs as its instruction, whatever the state (R90). -/
theorem stepWord_of_decode {e : Encoded} {i : Instr} (hdec : decode e = .ok i) (s : State) :
    stepWord e s = exec i s := by
  simp only [stepWord, hdec]

/-- Settles O6: taking the word from the inbox, then executing the instruction it decodes to. -/
theorem stepRunsTheDecodedInstruction : Obligations.StepRunsTheDecodedInstruction := by
  intro s e rest i hin hdec
  calc step s = stepWord e { s with inbox := rest } := step_of_instr hin
    _ = exec i { s with inbox := rest } := stepWord_of_decode hdec _

end Sys2Proof.Machine

/-! Proofs for spec/10_state.md: what a step keeps, derived from what the updates of the model keep; the reset state. -/

namespace Sys2Proof.Machine

/-! ### Reset and the stuck position -/

/-- A reset pulse at the head of the inbox is applied to the state without it (R260). -/
theorem step_of_reset {s : State} {rest : List Input} (hin : s.inbox = .reset :: rest) :
    step s = .next { s with inbox := rest }.applyReset := by
  simp only [step, hin]

/-- Settles O10: the pulse is `applyReset`, whose only free field is RXBUF. -/
theorem resetPulseLeavesTheResetState : Obligations.ResetPulseLeavesTheResetState := by
  intro s rest hin
  exact ⟨Config.freeRxbuf s.draws, step_of_reset hin⟩

/-- Every row reads its reset value after reset (R42). -/
@[simp] theorem State.row_resetWith (cfg : Configuration) (c : CmdCode) : (State.resetWith cfg).row c = {} :=
  Block.row_reset _ c

/-- Settles O11: the registers of `Block.reset`, and its rows. -/
theorem stateAfterResetHoldsTheSpecValues : Obligations.StateAfterResetHoldsTheSpecValues := by
  refine ⟨rfl, rfl, rfl, rfl, rfl, rfl, fun c => ?_⟩
  have hrow : State.reset.row c = {} := State.row_resetWith _ c
  simp [hrow]

/-- Outside WaitingForStart an RXIDX beyond the frame has no byte step (U20). -/
theorem rxByte_stuck (b : Byte) (s : State) (hp : s.block.pstate ≠ .wfs) (hi : 13 ≤ s.block.rxidx.toNat) :
    rxByte b s = .error .parserIndexStuck := by
  have hlt : ¬ s.block.rxidx.toNat < 13 := by omega
  cases h : s.block.pstate with
  | wfs => exact absurd h hp
  | hdr => simp [rxByte, h, hlt]
  | cnt => simp [rxByte, h, hlt]

/-- Settles O37: RXBYTE answers what the byte step answers. -/
theorem unreachableIndexIsStuck : Obligations.UnreachableIndexIsStuck := by
  intro b now ok s hg hp hi
  rw [exec_rxByte s b now ok hg, rxByte_stuck b (s.setPins now ok) hp hi]
  rfl

/-! ### What a descriptor row can become -/

/-- A row at its reset values meets the row invariant of every family. -/
theorem rowOk_reset (fam : Option Family) : RowOk fam {} := by
  rcases fam with _ | _ | _ | _ <;> simp [RowOk]

/-- A row of a descriptor that is present keeps its invariant where the item count stays and RXCNT is 0 or the row is
blocked. -/
theorem RowOk.update {fam : Family} {d d' : Desc} (h : RowOk (some fam) d) (hcount : d'.itemCount = d.itemCount)
    (hsingle : d'.blocked = true ∨ d'.rxcnt = 0) : RowOk (some fam) d' := by
  cases fam with
  | single =>
    refine ⟨hcount.trans h.1, fun hb => ?_⟩
    rcases hsingle with hb' | h0
    · simp [hb] at hb'
    · exact h0
  | seq n => exact hcount.trans h
  | array per => trivial

/-- Outside SINGLE the row invariant says nothing of RXCNT. -/
theorem RowOk.update_of_ne_single {fam : Family} {d d' : Desc} (h : RowOk (some fam) d) (hfam : fam ≠ .single)
    (hcount : d'.itemCount = d.itemCount) : RowOk (some fam) d' := by
  cases fam with
  | single => exact absurd rfl hfam
  | seq n => exact hcount.trans h
  | array per => trivial

/-- A frame of a SINGLE command that is not blocked is the one it expects, and its last (R36, R175). -/
theorem nextExpected_single {s : State} {f : Frame} (h : RowOk (some .single) (s.row f[2]))
    (hb : (s.row f[2]).blocked = false) :
    NextExpected s .single f ∧ countAfter s f[2] = expectedCount s f[2] .single := by
  obtain ⟨-, hzero⟩ := h
  have hone : countAfter s f[2] = 1 := by simp [countAfter, hzero hb]
  exact ⟨⟨hb, by simp [hone, expectedCount], trivial⟩, hone⟩

/-- PROCESS writes the row of its frame's command, keeping the row's invariant, and appends events (R174, R177). -/
theorem processFrame_rowOk (s : State) (fam : Family) (f : Frame) :
    ∃ d events, (processFrame s fam f).state = { s with block := s.block.setRow f[2] d, evq := s.evq ++ events } ∧
      (RowOk (some fam) (s.row f[2]) → RowOk (some fam) d) := by
  rcases processFrame_cases s fam f with ⟨why, hn, e⟩ | ⟨hn, -, hlast, e⟩ | ⟨-, -, -, e⟩ | ⟨-, -, e⟩ <;> rw [e]
  case inl =>
    refine ⟨_, _, rfl, fun h => ?_⟩
    by_cases hfam : fam = .single
    · subst hfam
      refine h.update rfl (.inl ?_)
      by_contra hb
      exact hn (nextExpected_single h (by simpa using hb)).1
    · exact h.update_of_ne_single hfam rfl
  case inr.inl =>
    refine ⟨_, _, rfl, fun h => ?_⟩
    by_cases hfam : fam = .single
    · subst hfam
      exact absurd (nextExpected_single h hn.1).2 hlast
    · exact h.update_of_ne_single hfam rfl
  case inr.inr.inl => exact ⟨_, _, rfl, fun h => h.update rfl (.inr rfl)⟩
  case inr.inr.inr => exact ⟨_, _, State.emit_emit _ _ _, fun h => h.update rfl (.inl rfl)⟩

/-- ROUTE writes at most the row of its frame's command, keeping the row's invariant, and appends events (R173). -/
theorem routeFrame_rowOk (s : State) (f : Frame) :
    ∃ d events, s.routeFrame f = { s with block := s.block.setRow f[2] d, evq := s.evq ++ events } ∧
      (RowOk (s.desc f[2]) (s.row f[2]) → RowOk (s.desc f[2]) d) := by
  cases hd : s.desc f[2] with
  | none =>
    refine ⟨s.row f[2], [.unrouted f[2] f], ?_, id⟩
    rw [routeFrame_absent s f hd]
    simp [State.emit, State.row]
  | some fam =>
    obtain ⟨d, events, e, hrow⟩ := processFrame_rowOk s fam f
    cases hc : (processFrame s fam f).completed with
    | false => exact ⟨d, events, by rw [routeFrame_incomplete s f fam hd hc, e], hrow⟩
    | true =>
      refine ⟨d, events ++ [.complete f[2] s.now], ?_, hrow⟩
      rw [routeFrame_complete s f fam hd hc, e]
      simp [State.emit]

/-! ### Outcomes -/

/-- The outcome is a next state with `P`, or it is the fault and `stuck` holds; it is no refusal. -/
def EndsWith (P : State → Prop) (stuck : Prop) : Outcome → Prop
  | .next t => P t
  | .fault _ => stuck
  | .refused _ => False

/-- A cause code of WindowFault (R230). -/
def IsCauseCode (code : BitVec 4) : Prop := code = wfBytes ∨ code = wfBitpos ∨ code = wfLinear

section
variable {P : State → Prop} {stuck : Prop}

theorem EndsWith.of_next {o : Outcome} {t : State} (h : EndsWith P stuck o) (ho : o = .next t) : P t := by
  subst ho; exact h

/-- Where `stuck` is false the outcome is a next state. -/
theorem EndsWith.exists_next {o : Outcome} (h : EndsWith P False o) : ∃ t, o = .next t := by
  cases o with
  | next t => exact ⟨t, rfl⟩
  | fault r => exact h.elim
  | refused r => exact h.elim

theorem endsWith_guarded {s : State} {run : Outcome} (hrefuse : P (s.refuse .faulted))
    (hrun : EndsWith P stuck run) : EndsWith P stuck (guarded s run) := by
  unfold guarded
  split
  · exact hrefuse
  · exact hrun

theorem endsWith_withDesc {s : State} {c : CmdCode} {run : Family → Outcome} (hrefuse : P (s.refuse .notPresent))
    (hrun : ∀ fam, s.desc c = some fam → EndsWith P stuck (run fam)) : EndsWith P stuck (withDesc s c run) := by
  cases hd : s.desc c with
  | none => rw [withDesc_none s c run hd]; exact hrefuse
  | some fam => rw [withDesc_some s c run fam hd]; exact hrun fam hd

theorem endsWith_withBytes {s : State} {f : Frame} {off : Byte} {n : Nat} {run : List Byte → Outcome}
    (hfault : ∀ info, P (s.windowFault wfBytes info)) (hrun : ∀ bs, EndsWith P stuck (run bs)) :
    EndsWith P stuck (withBytes s f off n run) := by
  unfold withBytes
  split
  · exact hfault _
  · exact hrun _

end

/-! ### A property that every update keeps -/

/-- `P` depends on the block and the configuration only and is kept by the updates that a step is made of: a row
written within its family's invariant, WindowFault, a byte step, a reset; the byte step of a state with `P` fails only
where `stuck` holds. -/
structure KeptByUpdates (P : State → Prop) (stuck : Prop) : Prop where
  outside : ∀ {s t : State}, P s → t.block = s.block → t.cfg = s.cfg → P t
  row : ∀ {s : State} {c : CmdCode} {d : Desc}, P s → (RowOk (s.desc c) (s.row c) → RowOk (s.desc c) d) →
    P (s.setRow c d)
  fault : ∀ {s : State} {code : BitVec 4} (info : BitVec 16), P s → IsCauseCode code → P (s.windowFault code info)
  byte : ∀ {b : Byte} {s t : State}, P s → rxByte b s = .ok t → P t
  byteFails : ∀ {b : Byte} {s : State} {e : Fault}, P s → rxByte b s = .error e → stuck
  reset : ∀ {s : State}, P s → P s.applyReset

section
variable {P : State → Prop} {stuck : Prop} (hk : KeptByUpdates P stuck) {s : State} (h : P s)
include hk h

theorem KeptByUpdates.answer (k : Nat) (v : ResWord) : P (s.answer k v) := hk.outside h rfl rfl

theorem KeptByUpdates.done : P s.done := hk.outside h rfl rfl

theorem KeptByUpdates.refuse (st : Status) : P (s.refuse st) := hk.outside h rfl rfl

theorem KeptByUpdates.setNow (now : Time) : P (s.setNow now) := hk.outside h rfl rfl

theorem KeptByUpdates.setPins (now : Time) (ok : Bool) : P (s.setPins now ok) := hk.outside h rfl rfl

theorem KeptByUpdates.withRxq (q : List Byte) : P { s with rxq := q } := hk.outside h rfl rfl

theorem KeptByUpdates.withInbox (inbox : List Input) : P { s with inbox := inbox } := hk.outside h rfl rfl

/-- A row of a present descriptor written within its family's invariant. -/
theorem KeptByUpdates.presentRow {c : CmdCode} {d : Desc} {fam : Family} (hd : s.desc c = some fam)
    (hrow : RowOk (some fam) (s.row c) → RowOk (some fam) d) : P (s.setRow c d) :=
  hk.row h (by rw [hd]; exact hrow)

/-- The row that PREPARE writes (R172). -/
theorem KeptByUpdates.preparedRow {c : CmdCode} {fam : Family} (hd : s.desc c = some fam) :
    P (s.setRow c { s.row c with rxcnt := 0, blocked := false }) :=
  hk.presentRow h hd fun hrow => hrow.update rfl (.inr rfl)

/-- The row that SETVALID writes (R180). -/
theorem KeptByUpdates.setValidRow {c : CmdCode} {fam : Family} (hd : s.desc c = some fam) : P (s.setValidRow c) :=
  hk.presentRow h hd fun hrow => hrow.update rfl (.inr rfl)

theorem KeptByUpdates.processFrame (f : Frame) {fam : Family} (hd : s.desc f[2] = some fam) :
    P (processFrame s fam f).state := by
  obtain ⟨d, events, e, hrow⟩ := processFrame_rowOk s fam f
  rw [e]
  exact hk.outside (hk.presentRow h hd hrow) rfl rfl

theorem KeptByUpdates.routeFrame (f : Frame) : P (s.routeFrame f) := by
  obtain ⟨d, events, e, hrow⟩ := routeFrame_rowOk s f
  rw [e]
  exact hk.outside (hk.row h hrow) rfl rfl

/-! The receiver -/

theorem endsWith_answering_rxByte (b : Byte) {finish : State → State} (hfin : ∀ t, P t → P (finish t)) :
    EndsWith P stuck (answering (rxByte b s) finish) := by
  cases hr : rxByte b s with
  | ok t => exact hfin t (hk.byte h hr)
  | error e => exact hk.byteFails h hr

theorem endsWith_answering_receiveBytes (bs : List Byte) {finish : State → State} (hfin : ∀ t, P t → P (finish t)) :
    EndsWith P stuck (answering (receiveBytes bs s) finish) := by
  induction bs generalizing s with
  | nil => exact hfin s h
  | cons b bs ih =>
    cases hr : rxByte b s with
    | ok t => rw [receiveBytes_cons_ok hr]; exact ih (hk.byte h hr)
    | error e =>
      have hstuck : stuck := hk.byteFails h hr
      simpa [receiveBytes, hr, answering, EndsWith] using hstuck

/-- The loop of DRAIN ends in a state with `P`, or a byte step fails. -/
theorem drainLoop_keeps (fuel n : Nat) :
    (∃ m t, drainLoop fuel n s = .ok (m, t) ∧ P t) ∨ (∃ e, drainLoop fuel n s = .error e ∧ stuck) := by
  induction fuel generalizing n s with
  | zero => exact .inl ⟨n, s, rfl, h⟩
  | succ fuel ih =>
    unfold drainLoop
    cases hq : s.rxq with
    | nil => rw [poll_empty s hq]; exact .inl ⟨n, s, rfl, h⟩
    | cons b q =>
      rw [poll_cons s b q hq]
      have hpolled : P { s with rxq := q } := hk.withRxq h q
      dsimp only
      cases hr : rxByte b { s with rxq := q } with
      | ok t => exact ih (hk.outside (hk.byte hpolled hr) (linkTurn_block t) (linkTurn_cfg t)) (n + 1)
      | error e => exact .inr ⟨e, rfl, hk.byteFails hpolled hr⟩

theorem receiveFrame_endsWith (f : Frame) (now : Time) (ok : Bool) :
    EndsWith P stuck (receiveFrame f now ok s) :=
  endsWith_guarded (hk.refuse h _)
    (endsWith_answering_receiveBytes hk (hk.setPins h now ok) f.toList fun _ ht => hk.done ht)

theorem execRxPoll_endsWith (now : Time) (ok : Bool) : EndsWith P stuck (execRxPoll now ok s) := by
  refine endsWith_guarded (hk.refuse h _) ?_
  cases hq : (s.setPins now ok).rxq with
  | nil => rw [poll_empty _ hq]; exact hk.answer (hk.setPins h now ok) _ _
  | cons b q =>
    rw [poll_cons _ b q hq]
    exact endsWith_answering_rxByte hk (hk.withRxq (hk.setPins h now ok) q) b fun _ ht => hk.answer ht _ _

theorem execDrain_endsWith (now : Time) (ok : Bool) : EndsWith P stuck (execDrain now ok s) := by
  refine endsWith_guarded (hk.refuse h _) ?_
  have hpins : P (s.setPins now ok) := hk.setPins h now ok
  rcases drainLoop_keeps hk hpins ((s.setPins now ok).pending + 1) 0 with ⟨m, t, e, ht⟩ | ⟨r, e, hs⟩
  · rw [drainBytes, e]; exact hk.answer ht _ _
  · rw [drainBytes, e]; exact hs

theorem execTxFrame_endsWith (f : Frame) (now : Time) (ok : Bool) : EndsWith P stuck (execTxFrame f now ok s) := by
  refine endsWith_guarded (hk.refuse h _) ?_
  have hsent : P (((s.setPins now ok).emit (.transmit f)).write f) := hk.outside h rfl rfl
  rcases drainLoop_keeps hk hsent _ 0 with ⟨m, t, e, ht⟩ | ⟨r, e, hs⟩
  · dsimp only; rw [drainBytes, e]; exact hk.answer ht _ _
  · dsimp only; rw [drainBytes, e]; exact hs

/-! The other operations -/

/-- An operation that reads window bytes and then ends well. -/
theorem withRead_endsWith (f : Frame) (off : Byte) (n : Nat) {run : Nat → Outcome}
    (hrun : ∀ v, EndsWith P stuck (run v)) : EndsWith P stuck (withRead s f off n run) :=
  endsWith_withBytes (fun info => hk.fault info h (.inl rfl)) fun _ => hrun _

/-- A window read that answers what it read. -/
theorem withRead_answer_endsWith (f : Frame) (off : Byte) (n k : Nat) (v : Nat → ResWord) :
    EndsWith P stuck (withRead s f off n fun x => .next (s.answer k (v x))) :=
  withRead_endsWith hk h f off n fun _ => hk.answer h _ _

theorem scaled_endsWith (f : Frame) (off : Byte) (n : Nat) (divisor : BitVec 32) :
    EndsWith P stuck (scaled s f off n divisor) := by
  unfold scaled
  split
  · exact hk.refuse h _
  · exact withRead_answer_endsWith hk h f off n _ _

/-- A CODEC or VALDEC operation answers, is refused or raises a WindowFault (R110, R210). -/
theorem exec_codec_endsWith (i : Instr) (hi : IsCodecOrValdec i = true) : EndsWith P stuck (exec i s) := by
  cases i <;> try (cases hi; done)
  all_goals refine endsWith_guarded (hk.refuse h _) ?_
  case checksum => exact hk.answer h _ _
  case encode => exact hk.answer h _ _
  case decode => exact hk.answer h _ _
  case validate => exact hk.answer h _ _
  case getBit =>
    refine withRead_endsWith hk h _ _ _ fun v => ?_
    split
    · exact hk.fault _ h (.inr (.inl rfl))
    · exact hk.answer h _ _
  case getBitL =>
    split
    · exact hk.fault _ h (.inr (.inr rfl))
    · exact withRead_answer_endsWith hk h _ _ _ _ _
  case decTriple => exact endsWith_withBytes (fun info => hk.fault info h (.inl rfl)) fun _ => hk.answer h _ _
  case decScaled16 => exact scaled_endsWith hk h _ _ _ _
  case decScaled32 => exact scaled_endsWith hk h _ _ _ _
  all_goals exact withRead_answer_endsWith hk h _ _ _ _ _

/-- SETCOUNT writes the item count of an ARRAY row only (R183). -/
theorem setItemCount_endsWith (c : CmdCode) (count : Byte) {fam : Family} (hd : s.desc c = some fam) :
    EndsWith P stuck (setItemCount s c count fam) := by
  cases fam with
  | single => exact hk.refuse h _
  | seq n => exact hk.refuse h _
  | array per => exact hk.done (hk.presentRow h hd fun _ => trivial)

/-- Every instruction ends in a state with `P`, or in the fault where `stuck` holds. -/
theorem exec_endsWith (i : Instr) : EndsWith P stuck (exec i s) := by
  by_cases hcodec : IsCodecOrValdec i = true
  · exact exec_codec_endsWith hk h i hcodec
  cases hf : frameOf i with
  | some x =>
    obtain ⟨f, now, ok⟩ := x
    rw [exec_frame i f now ok s hf]
    exact receiveFrame_endsWith hk h f now ok
  | none =>
    cases i <;> first | (cases hf; done) | (exact absurd rfl hcodec) | skip
    case rxPoll now ok => exact execRxPoll_endsWith hk h now ok
    case drain now ok => exact execDrain_endsWith hk h now ok
    case txFrame f now ok => exact execTxFrame_endsWith hk h f now ok
    all_goals refine endsWith_guarded (hk.refuse h _) ?_
    case rxByte b now ok => exact endsWith_answering_rxByte hk (hk.setPins h now ok) b fun _ ht => hk.done ht
    case route f now ok => exact hk.done (hk.routeFrame (hk.setPins h now ok) f)
    all_goals refine endsWith_withDesc (hk.refuse h _) fun fam hd => ?_
    case prepare c p => exact hk.answer (hk.preparedRow h hd) _ _
    case setValid c now => exact hk.done (hk.setValidRow (hk.setNow h now) hd)
    case setCount c count => exact setItemCount_endsWith hk h c count hd
    case process f now ok => exact hk.answer (hk.processFrame (hk.setPins h now ok) f hd) _ _
    all_goals exact hk.answer h _ _

/-- An encoded word ends like an instruction: a reserved OPSEL is refused, a frame word of no row is received (R93, R94). -/
theorem stepWord_endsWith (e : Encoded) : EndsWith P stuck (stepWord e s) := by
  cases hdec : decode e with
  | ok i => rw [stepWord_of_decode hdec]; exact exec_endsWith hk h i
  | error r =>
    simp only [stepWord, hdec]
    cases e with
    | op q => exact endsWith_guarded (hk.refuse h _) (hk.refuse h _)
    | frame w now ok => exact receiveFrame_endsWith hk h _ now ok

/-- Every step ends in a state with `P`, or in the fault where `stuck` holds. -/
theorem step_endsWith : EndsWith P stuck (step s) := by
  unfold step
  split
  · exact h
  · exact stepWord_endsWith hk (hk.withInbox h _) _
  · exact hk.outside h rfl rfl
  · exact hk.reset (hk.withInbox h _)

end

/-! ### The configuration -/

/-- No update writes the configuration; nothing is said of the stuck position. -/
theorem keptByUpdates_cfg (cfg : Configuration) : KeptByUpdates (fun s => s.cfg = cfg) True where
  outside h _ hcfg := hcfg.trans h
  row h _ := h
  fault _ h _ := h
  byte h hr := by
    obtain ⟨blk, events, rfl⟩ := rxByte_frame hr
    exact h
  byteFails _ _ := trivial
  reset h := h

/-- Settles O14: the configuration is a property that every update keeps. -/
theorem stepNeverChangesTheConfiguration : Obligations.StepNeverChangesTheConfiguration := fun s _ hstep =>
  (step_endsWith (keptByUpdates_cfg s.cfg) rfl).of_next hstep

/-! ### The invariant -/

/-- In WaitingForStart there is no partial frame to speak of. -/
theorem bufferOk_of_wfs {cfg : Configuration} {b : Block} (h : b.pstate = .wfs) : b.BufferOk cfg :=
  ⟨fun hne => absurd h hne, fun hne => absurd h hne⟩

/-- The invariant of a block in its reset values, whatever RXBUF holds (R42). -/
theorem invariant_of_reset {s : State} {buf : Vector Byte 13} (hb : s.block = Block.reset buf) : Invariant s where
  parser := by rw [hb]; rfl
  buffer := by rw [hb]; exact bufferOk_of_wfs rfl
  faultRegs := by rw [hb]; exact ⟨fun _ => ⟨rfl, rfl⟩, fun hf => absurd hf (by simp [Block.reset])⟩
  rows c := by
    have hrow : s.row c = {} := by rw [State.row, hb, Block.row_reset]
    rw [hrow]
    exact rowOk_reset _

/-- Settles O13: both states have a block in its reset values. -/
theorem resetStateMeetsTheInvariant : Obligations.ResetStateMeetsTheInvariant :=
  ⟨invariant_of_reset rfl, fun _ => invariant_of_reset rfl⟩

/-- The header address test is made at 2 or at 4 (R8, D4). -/
theorem hdrCheck_index_ge (k : HdrCheck) : 2 ≤ k.index := by
  cases k <;> simp [HdrCheck.index]

/-- The partial frame after one more byte at its place: byte 0 stays, and the address byte is the one tested before, or the
byte step has just tested it. -/
theorem bufferOk_advance {s : State} {b : Byte} {p : PState} (h : s.block.BufferOk s.cfg) (hp : s.block.pstate ≠ .wfs)
    (hpos : 1 ≤ s.block.rxidx.toNat) (hi : s.block.rxidx.toNat < 13)
    (htest : s.block.rxidx.toNat + 1 = s.cfg.hdrCheck.index →
      addrInRange s.cfg (s.block.rxbuf.set s.block.rxidx.toNat b)[1] = true) :
    (s.withParser (s.block.rxbuf.set s.block.rxidx.toNat b) p
      (BitVec.ofNat 4 (s.block.rxidx.toNat + 1))).block.BufferOk s.cfg := by
  obtain ⟨hstart, haddr⟩ := h
  refine ⟨fun _ => ?_, fun _ hreached => ?_⟩
  · have hne : s.block.rxidx.toNat ≠ 0 := by omega
    simpa [hne] using hstart hp
  · dsimp only at hreached ⊢
    rw [rxidx_ofNat _ (by omega)] at hreached
    rcases Nat.lt_or_ge s.block.rxidx.toNat s.cfg.hdrCheck.index with hlt | hge
    · exact htest (by omega)
    · have hne : s.block.rxidx.toNat ≠ 1 := by have := hdrCheck_index_ge s.cfg.hdrCheck; omega
      simpa [hne] using haddr hp hge

/-- A byte step keeps the partial frame's invariant (R141, R142). -/
theorem rxByte_bufferOk {b : Byte} {s t : State} (hr : rxByte b s = .ok t) (hp : s.block.ParserOk)
    (hb : s.block.BufferOk s.cfg) : t.block.BufferOk s.cfg := by
  have hi := parserOk_index hp
  cases hs : s.block.pstate with
  | wfs =>
    by_cases hstart : b = s.cfg.startByte
    · subst hstart
      rw [rxByte_wfs_start s hs] at hr
      cases hr
      refine ⟨fun _ => by simp, fun _ hreached => ?_⟩
      have := hdrCheck_index_ge s.cfg.hdrCheck
      simp at hreached
      omega
    · rw [rxByte_wfs_other b s hs hstart] at hr
      cases hr
      exact hb
  | hdr =>
    simp only [Block.ParserOk, hs] at hp
    have hadvance := fun p => bufferOk_advance (b := b) (p := p) hb (by simp [hs]) hp.1 hi
    rw [rxByte_hdr b s hs hi] at hr
    cases hr
    split
    · exact bufferOk_of_wfs rfl
    · next hpass =>
      have htest : s.block.rxidx.toNat + 1 = s.cfg.hdrCheck.index →
          addrInRange s.cfg (s.block.rxbuf.set s.block.rxidx.toNat b)[1] = true := fun hat => by
        simpa [hat] using hpass
      split
      · next h4 => have := hadvance .cnt htest; rwa [h4] at this
      · exact hadvance .hdr htest
  | cnt =>
    simp only [Block.ParserOk, hs] at hp
    rcases Nat.lt_or_ge s.block.rxidx.toNat 12 with hlt | hge
    · rw [rxByte_cnt_inside b s hs hlt] at hr
      cases hr
      refine bufferOk_advance hb (by simp [hs]) (by omega) hi fun hat => ?_
      have : s.cfg.hdrCheck.index ≤ 4 := by cases s.cfg.hdrCheck <;> simp [HdrCheck.index]
      omega
    · rw [rxByte_cnt_last b s hs (by omega)] at hr
      cases hr
      split
      · obtain ⟨d, events, e⟩ := routeFrame_frame ((s.withParser (s.block.rxbuf.set 12 b) .wfs 0).emit
          (.receive (s.block.rxbuf.set 12 b))) (s.block.rxbuf.set 12 b)
        rw [e]
        exact bufferOk_of_wfs rfl
      · exact bufferOk_of_wfs rfl

/-- A row written within its family's invariant leaves every row within its own. -/
theorem rows_setRow {s : State} {c : CmdCode} {d : Desc} (h : ∀ c', RowOk (s.desc c') (s.row c'))
    (hrow : RowOk (s.desc c) (s.row c) → RowOk (s.desc c) d) (c' : CmdCode) :
    RowOk (s.desc c') ((s.setRow c d).row c') := by
  rw [State.row_setRow]
  split
  · next hc => subst hc; exact hrow (h _)
  · exact h c'

/-- A byte step keeps every row within its family's invariant: only ROUTE of a valid frame writes one (R143, R173). -/
theorem rxByte_rows {b : Byte} {s t : State} (hr : rxByte b s = .ok t) (h : ∀ c, RowOk (s.desc c) (s.row c))
    (c : CmdCode) : RowOk (s.desc c) (t.row c) := by
  rcases rxByte_cases hr with ⟨buf, p, i, rfl⟩ | ⟨f, -, rfl⟩ | ⟨f, -, rfl⟩
  · exact h c
  · exact h c
  · obtain ⟨d, events, e, hrow⟩ := routeFrame_rowOk ((s.withParser f .wfs 0).emit (.receive f)) f
    rw [e]
    exact rows_setRow (s := (s.withParser f .wfs 0).emit (.receive f)) h hrow c

theorem rxByte_invariant {b : Byte} {s t : State} (h : Invariant s) (hr : rxByte b s = .ok t) : Invariant t := by
  have hcfg : t.cfg = s.cfg := (keptByUpdates_cfg s.cfg).byte rfl hr
  obtain ⟨hfault, hcode, hinfo⟩ := rxByte_faultRegs hr
  exact {
    parser := rxByte_parserOk hr h.parser
    buffer := by rw [hcfg]; exact rxByte_bufferOk hr h.parser h.buffer
    faultRegs := by rw [Block.FaultRegsOk, hfault, hcode, hinfo]; exact h.faultRegs
    rows := fun c => by rw [State.desc_congr hcfg]; exact rxByte_rows hr h.rows c }

/-- Every update keeps the invariant, and no state that meets it is in the stuck position. -/
theorem keptByUpdates_invariant : KeptByUpdates Invariant False where
  outside {s t} h hblock hcfg :=
    { parser := by rw [hblock]; exact h.parser
      buffer := by rw [hblock, hcfg]; exact h.buffer
      faultRegs := by rw [hblock]; exact h.faultRegs
      rows := fun c => by rw [State.desc_congr hcfg, State.row, hblock]; exact h.rows c }
  row h hrow :=
    { parser := h.parser
      buffer := h.buffer
      faultRegs := h.faultRegs
      rows := rows_setRow h.rows hrow }
  fault _ h hcode :=
    { parser := h.parser
      buffer := h.buffer
      faultRegs := ⟨fun hf => absurd hf (by simp), fun _ => hcode⟩
      rows := h.rows }
  byte := rxByte_invariant
  byteFails {b s _} h hr := by
    obtain ⟨t, ht⟩ := rxByte_total b s (parserOk_index h.parser)
    simp [ht] at hr
  reset _ := invariant_of_reset rfl

/-- Settles O12: the invariant is a property that every update keeps. -/
theorem everyStepKeepsTheInvariant : Obligations.EveryStepKeepsTheInvariant := fun _ _ h hstep =>
  (step_endsWith keptByUpdates_invariant h).of_next hstep

/-- Settles O15: the one stop of a step is the stuck position, which the invariant rules out. -/
theorem invariantStateAlwaysSteps : Obligations.InvariantStateAlwaysSteps := fun _ h =>
  (step_endsWith keptByUpdates_invariant h).exists_next

end Sys2Proof.Machine

/-! Proofs for spec/30_encoding.md: the decoder and the encoder row by row, the words that no row holds, and the receiver on
the 13 bytes of a frame word. -/

namespace Sys2Proof

/-! ### Frame words -/

/-- A command code with its open fields decodes to `i` exactly where they are the frame fields of `i` (R89): the decoder's
table and `Instr.frameFields` list the same rows. -/
theorem decodeCommand_eq_ok_iff {c : CmdCode} {b : OpenFields} {now : Time} {ok : Bool} {i : Instr} :
    decodeCommand c b now ok = .ok i ↔ i.frameFields = some (c, b, now, ok) := by
  constructor
  · intro h
    unfold decodeCommand at h
    split at h <;> cases h <;> rfl
  · intro h
    cases i <;> cases h <;> rfl

/-- The codes that decode are those R89 lists. -/
theorem exists_decodeCommand_iff {c : CmdCode} {b : OpenFields} {now : Time} {ok : Bool} :
    (∃ i, decodeCommand c b now ok = .ok i) ↔ c ∈ Machine.listedCodes := by
  constructor
  · rintro ⟨i, h⟩
    rw [decodeCommand_eq_ok_iff] at h
    cases i <;> cases h <;> decide
  · intro hc
    unfold decodeCommand
    split
    case h_33 => simp_all [Machine.listedCodes]
    all_goals exact ⟨_, rfl⟩

/-- What a frame that decodes looks like (R80): the fixed bytes of its row, then a listed command. -/
theorem decodeFrame_eq_ok_iff {f : Frame} {now : Time} {ok : Bool} {i : Instr} :
    decodeFrame f now ok = .ok i ↔
      f[0] = startByte ∧ f[3] = lenByte ∧ decodeCommand f[2] ⟨f[1], payloadOf f, f[12]⟩ now ok = .ok i := by
  rw [decodeFrame_eq]
  split_ifs with hstart hlen
  · simp [hstart]
  · simp [hlen]
  · rw [not_not] at hstart hlen
    simp [hstart, hlen]

theorem encode_of_frameFields {i : Instr} {c : CmdCode} {b : OpenFields} {now : Time} {ok : Bool}
    (h : i.frameFields = some (c, b, now, ok)) : encode i = encodeCommand c b now ok := by
  cases i <;> cases h <;> rfl

theorem decode_encodeCommand (c : CmdCode) (b : OpenFields) (now : Time) (ok : Bool) :
    decode (encodeCommand c b now ok) = decodeCommand c b now ok := by
  rw [encodeCommand, decode, wordToFrame_frameToWord, decodeFrame_mkFrame]

/-- A word whose frame has the fixed bytes of a row is the word of that frame's own fields (R80, R81). -/
theorem frameToWord_mkFrame_wordToFrame {w : BitVec 104} (hstart : (wordToFrame w)[0] = startByte)
    (hlen : (wordToFrame w)[3] = lenByte) :
    frameToWord (mkFrame (wordToFrame w)[2]
      ⟨(wordToFrame w)[1], payloadOf (wordToFrame w), (wordToFrame w)[12]⟩) = w := by
  rw [mkFrame_eta _ hstart hlen, frameToWord_wordToFrame]

/-- Settles O2: the fields that the decoder reads are all the open bits of the word. -/
theorem encodeOfDecodedFrameIsTheWord : Obligations.EncodeOfDecodedFrameIsTheWord := by
  intro w now ok i hdec
  obtain ⟨hstart, hlen, hcmd⟩ := decodeFrame_eq_ok_iff.1 hdec
  rw [encode_of_frameFields (decodeCommand_eq_ok_iff.1 hcmd), encodeCommand,
    frameToWord_mkFrame_wordToFrame hstart hlen]

/-! ### The port's input -/

/-- Every host operation is read back from the port's fields it uses (R90, R92). -/
theorem decode_encode_of_host {i : Instr} (h : i.frameFields = none) : decode (encode i) = .ok i := by
  cases i <;> try (cases h; done)
  all_goals simp [encode, decode, decodePort, wordToFrame_frameToWord, wordToPayload_payloadToWord]

/-- Settles O1: a FRAME13 row by the frame it stands for, a host operation by the port's fields. -/
theorem decodeOfEncodeIsTheInstruction : Obligations.DecodeOfEncodeIsTheInstruction := by
  intro i
  cases h : i.frameFields with
  | none => exact decode_encode_of_host h
  | some x =>
    obtain ⟨c, b, now, ok⟩ := x
    rw [encode_of_frameFields h, decode_encodeCommand]
    exact decodeCommand_eq_ok_iff.2 h

theorem decodePort_of_reserved {q : PortIn} (h : q.opsel = 0x00#5 ∨ q.opsel = 0x17#5) :
    decodePort q = .error (.reservedOpsel q.opsel) := by
  rcases h with h | h <;> simp [decodePort, h]

theorem exists_decodePort_of_ne {q : PortIn} (h0 : q.opsel ≠ 0x00#5) (h17 : q.opsel ≠ 0x17#5) :
    ∃ i, decodePort q = .ok i := by
  unfold decodePort
  split
  case h_31 =>
    exfalso
    have hlt := q.opsel.isLt
    simp only [imp_false, ne_eq, ← BitVec.toNat_inj, BitVec.toNat_ofNat, Nat.reducePow, Nat.reduceMod] at *
    omega
  all_goals exact ⟨_, rfl⟩

/-- Settles O4: the two reserved values are refused, the other thirty are rows of R92. -/
theorem portInputIsInstructionUnlessOpselReserved : Obligations.PortInputIsInstructionUnlessOpselReserved := by
  intro q
  constructor
  · rintro ⟨i, hdec⟩
    rw [← not_or]
    intro hres
    rw [decode, decodePort_of_reserved hres] at hdec
    cases hdec
  · rintro ⟨h0, h17⟩
    exact exists_decodePort_of_ne h0 h17

/-! ### Mask and match -/

/-- The match of the row of command code `c` (R81): the start and length bytes, the code in bits 87:80. -/
def rowMatch (c : CmdCode) : BitVec 104 := 0xA5000008000000000000000000#104 ||| c.setWidth 104 <<< 80

/-- The match of a row byte by byte, evaluated for each of the 256 codes a frame can carry. -/
theorem rowMatch_eq_append (c : CmdCode) :
    rowMatch c =
      0xA5#8 ++ 0x00#8 ++ c ++ 0x08#8 ++ 0x00#8 ++ 0x00#8 ++ 0x00#8 ++ 0x00#8 ++ 0x00#8 ++ 0x00#8 ++ 0x00#8 ++ 0x00#8 ++
        0x00#8 := by
  revert c
  decide

/-- The frame of a row whose open fields are 0 is the row's match. -/
theorem rowMatch_eq_frame (c : CmdCode) : rowMatch c = frameToWord (mkFrame c ⟨0, Vector.replicate 8 0, 0⟩) :=
  rowMatch_eq_append c

/-- A byte of a word that the mask keeps is the match's. -/
theorem extract_of_and_eq {n k : Nat} {w m r : BitVec n} (h : w &&& m = r)
    (hm : m.extractLsb' k 8 = BitVec.allOnes 8) : w.extractLsb' k 8 = r.extractLsb' k 8 := by
  rw [← h, BitVec.extractLsb'_and, hm, BitVec.and_allOnes]

/-- R81: a word under the mask is the match of `c` exactly where its frame has the start byte, the command `c` and the
length byte. -/
theorem and_frameMask_eq_rowMatch_iff {w : BitVec 104} {c : CmdCode} :
    w &&& frameMask = rowMatch c ↔
      (wordToFrame w)[0] = startByte ∧ (wordToFrame w)[3] = lenByte ∧ (wordToFrame w)[2] = c := by
  constructor
  · intro h
    have hrow : wordToFrame (rowMatch c) = mkFrame c ⟨0, Vector.replicate 8 0, 0⟩ := by
      rw [rowMatch_eq_frame, wordToFrame_frameToWord]
    have hstart : (wordToFrame w)[0] = (wordToFrame (rowMatch c))[0] := extract_of_and_eq (k := 96) h (by decide)
    have hlen : (wordToFrame w)[3] = (wordToFrame (rowMatch c))[3] := extract_of_and_eq (k := 72) h (by decide)
    have hcmd : (wordToFrame w)[2] = (wordToFrame (rowMatch c))[2] := extract_of_and_eq (k := 80) h (by decide)
    rw [hrow] at hstart hlen hcmd
    exact ⟨hstart, hlen, hcmd⟩
  · rintro ⟨hstart, hlen, rfl⟩
    rw [rowMatch_eq_append, ← frame_and_mask, frameToWord_mkFrame_wordToFrame hstart hlen]

/-- Settles O3: both sides say that the frame has the fixed bytes of a row and a listed command code. -/
theorem frameIsInstructionIffItMatchesARow : Obligations.FrameIsInstructionIffItMatchesARow := by
  intro w now ok
  calc (∃ i, decode (.frame w now ok) = .ok i)
      ↔ (wordToFrame w)[0] = startByte ∧ (wordToFrame w)[3] = lenByte ∧ (wordToFrame w)[2] ∈ Machine.listedCodes := by
        simp only [decode, decodeFrame_eq_ok_iff, exists_and_left, exists_decodeCommand_iff]
    _ ↔ ∃ c ∈ Machine.listedCodes, w &&& frameMask = rowMatch c := by
        simp only [and_frameMask_eq_rowMatch_iff]
        constructor
        · rintro ⟨hstart, hlen, hc⟩
          exact ⟨_, hc, hstart, hlen, rfl⟩
        · rintro ⟨c, hc, hstart, hlen, rfl⟩
          exact ⟨hstart, hlen, hc⟩

/-- Settles O5: each word evaluated. -/
theorem wordsOfTheSpecDecode : Obligations.WordsOfTheSpecDecode :=
  ⟨fun _ _ => ⟨rfl, rfl, rfl⟩, rfl, rfl, rfl, rfl, rfl⟩

end Sys2Proof

namespace Sys2Proof.Machine

/-! ### Words that no row holds, and frames byte by byte -/

/-- A port input with a reserved OPSEL is refused with ST_ILLEGAL_OP (R94). -/
theorem stepWord_of_reserved {q : PortIn} (h : q.opsel = 0x00#5 ∨ q.opsel = 0x17#5) (s : State) (hg : s.Good) :
    stepWord (.op q) s = .next (s.refuse .illegalOp) := by
  simp only [stepWord, decode, decodePort_of_reserved h, guarded_good s _ hg]

/-- A frame word of no row is received like any other (R93; log entry 15). -/
theorem stepWord_of_unlisted {w : BitVec 104} {now : Time} {ok : Bool} {err : DecodeError}
    (hdec : decode (.frame w now ok) = .error err) (s : State) :
    stepWord (.frame w now ok) s = receiveFrame (wordToFrame w) now ok s := by
  simp only [stepWord, hdec]

/-- Settles O7: the refusal touches STATUS, RES and the count of free values only. -/
theorem reservedOpselIsRefused : Obligations.ReservedOpselIsRefused := by
  intro s q rest hg hin hres
  exact ⟨Config.freeRes s.draws, (step_of_instr hin).trans (stepWord_of_reserved hres { s with inbox := rest } hg)⟩

/-- The receiver on a frame is thirteen RXBYTE operations on its bytes, but for the answer (R93, R140). -/
theorem receiveFrame_eq_rxBytes (f : Frame) (now : Time) (ok : Bool) {s : State} (hg : s.Good)
    (hp : s.block.ParserOk) :
    ∃ t t', receiveFrame f now ok s = .next t ∧
      runAll (f.toList.map fun b => .rxByte b now ok) s = .next t' ∧
      t = { t' with status := .ok, res := t.res, draws := t.draws } := by
  obtain ⟨u, hu, -⟩ := receiveBytes_total f.toList (s.setPins now ok) hp
  obtain ⟨t', hrun, hfields, hpins⟩ := runAll_rxByte f.toList now ok s u hg hu
  have hne : f.toList ≠ [] := by simp [frame_toList]
  obtain ⟨hnow, hok⟩ : t'.now = now ∧ t'.decodeOk = ok := hpins.resolve_left fun h => hne h.1
  refine ⟨u.done, t', ?_, hrun, ?_⟩
  · rw [receiveFrame, guarded_good s _ hg, hu]
    rfl
  · rw [hfields, ← hnow, ← hok]
    rfl

/-- Settles O42: a FRAME13 instruction is the receiver on its frame. -/
theorem frameIsThirteenRxBytes : Obligations.FrameIsThirteenRxBytes := by
  intro i f now ok s hi hg hp
  rw [exec_frame i f now ok s hi]
  exact receiveFrame_eq_rxBytes f now ok hg hp

/-- Settles O8: a word of no row is taken by the same receiver. -/
theorem unlistedFrameIsReceivedByteByByte : Obligations.UnlistedFrameIsReceivedByteByByte := by
  intro s w now ok rest err hg hp hin hdec
  rw [step_of_instr hin, stepWord_of_unlisted hdec]
  exact receiveFrame_eq_rxBytes (wordToFrame w) now ok hg hp

end Sys2Proof.Machine

/-! Proofs for spec/40_codec.md: what the codec's functions compute, said without the model's definitions; then what its
operations answer and what they leave alone. -/

namespace Sys2Proof.Machine

/-! ### The checksum -/

/-- The checksum as a number: byte 12 is not summed and the carry is dropped (R111). -/
theorem checksum_toNat (f : Frame) :
    (checksum f).toNat = ((f.toList.take 12).map BitVec.toNat).sum % 256 := by
  simp [checksum, frame_toList, Nat.add_assoc]

/-- The checksum as a sum of bytes, which wraps by itself. -/
theorem checksum_eq_sum (f : Frame) : checksum f = ∑ k : Fin 12, f[k.val] := by
  simp [checksum, Fin.sum_univ_succ, BitVec.ofNat_add, add_assoc]

/-- Where two frames agree in all summed bytes but one, their checksums differ if that byte does: the other summands
cancel. -/
theorem getElem_eq_of_checksum_eq {f g : Frame} (j : Fin 12) (hother : ∀ k : Fin 12, k ≠ j → f[k.val] = g[k.val])
    (hsum : checksum f = checksum g) : f[j.val] = g[j.val] := by
  have hrest : ∑ k ∈ Finset.univ.erase j, f[k.val] = ∑ k ∈ Finset.univ.erase j, g[k.val] :=
    Finset.sum_congr rfl fun k hk => hother k (Finset.ne_of_mem_erase hk)
  rw [checksum_eq_sum, checksum_eq_sum, ← Finset.add_sum_erase _ _ (Finset.mem_univ j),
    ← Finset.add_sum_erase _ (fun k : Fin 12 => g[k.val]) (Finset.mem_univ j), hrest] at hsum
  exact add_right_cancel hsum

/-! ### Validation -/

/-- The four tests of R114. -/
theorem validate_iff (cfg : Configuration) (f : Frame) (r : Role) :
    validate cfg f r = true ↔
      f[0] = cfg.startByte ∧ f[1] = roleAddr cfg r ∧ f[3] = cfg.lenByte ∧ f[12] = checksum f := by
  simp [validate, checksumByte_eq, and_assoc]

/-- No bit of the error mask is set exactly where all four tests hold (R120). -/
theorem errMask_eq_zero_iff (cfg : Configuration) (f : Frame) (r : Role) :
    errMask cfg f r = 0 ↔ validate cfg f r = true := by
  have hbits : ∀ start addr len sum : Bool,
      BitVec.ofBool (!sum) ++ BitVec.ofBool (!len) ++ BitVec.ofBool (!addr) ++ BitVec.ofBool (!start) = 0#4 ↔
        (start && addr && len && sum) = true := by decide
  exact hbits _ _ _ _

/-! ### Frames and their fields -/

/-- Payload byte `i` is frame byte `4 + i` (R61). -/
theorem payloadOf_getElem (f : Frame) (i : Nat) (h : i < 8) : (payloadOf f)[i] = f[4 + i] := by
  interval_cases i <;> rfl

/-- A frame is assembled from its own fields (R80). -/
theorem assemble_eta (f : Frame) : assemble f[0] f[1] f[2] f[3] (payloadOf f) f[12] = f := by
  ext i hi
  interval_cases i <;> rfl

/-- The checksum does not read the byte it is stored at (R111). -/
theorem checksum_assemble (start a c len : Byte) (p : Payload) (k k' : Byte) :
    checksum (assemble start a c len p k) = checksum (assemble start a c len p k') := rfl

/-- ENCODE stores the checksum of the frame it builds (R112). -/
theorem encodeFrame_checksum (cfg : Configuration) (c : CmdCode) (r : Role) (p : Payload) :
    (encodeFrame cfg c r p)[12] = checksum (encodeFrame cfg c r p) :=
  checksum_assemble _ _ _ _ _ _ _

/-- The payload of an encoded frame is the one given (R121 item 3). -/
theorem payloadOf_encodeFrame (cfg : Configuration) (c : CmdCode) (r : Role) (p : Payload) :
    payloadOf (encodeFrame cfg c r p) = p :=
  payloadOf_assemble _ _ _ _ _ _

/-- An encoded frame passes the four tests of its role (R121 item 2). -/
theorem validate_encodeFrame (cfg : Configuration) (c : CmdCode) (r : Role) (p : Payload) :
    validate cfg (encodeFrame cfg c r p) r = true :=
  (validate_iff _ _ _).mpr ⟨rfl, rfl, rfl, encodeFrame_checksum cfg c r p⟩

/-- The four tests fix every byte of a frame but its command and payload (R121 item 4). -/
theorem encodeFrame_of_validate {cfg : Configuration} {f : Frame} {r : Role} (h : validate cfg f r = true) :
    encodeFrame cfg f[2] r (payloadOf f) = f := by
  obtain ⟨hstart, haddr, hlen, hsum⟩ := (validate_iff cfg f r).mp h
  have hk : checksum (assemble f[0] f[1] f[2] f[3] (payloadOf f) 0) = f[12] := by
    rw [checksum_assemble _ _ _ _ _ 0 f[12], assemble_eta, hsum]
  calc encodeFrame cfg f[2] r (payloadOf f)
      = assemble f[0] f[1] f[2] f[3] (payloadOf f) (checksum (assemble f[0] f[1] f[2] f[3] (payloadOf f) 0)) := by
        rw [encodeFrame, hstart, haddr, hlen]
    _ = f := by rw [hk, assemble_eta]

/-- Settles O30: the two directions, field by field. -/
theorem encodeAndDecodeAreInverseOnValidFrames : Obligations.EncodeAndDecodeAreInverseOnValidFrames := fun cfg r =>
  ⟨fun c p => ⟨validate_encodeFrame cfg c r p, rfl, rfl, payloadOf_encodeFrame cfg c r p⟩,
    fun _ h => encodeFrame_of_validate h⟩

/-- Settles O31: both frames hold one byte 12, so equal checksums, so equal bytes at `j`. -/
theorem oneChangedByteInvalidatesTheFrame : Obligations.OneChangedByteInvalidatesTheFrame := by
  intro cfg f g r j hj hf hne hother
  refine Bool.eq_false_iff.mpr fun hg => hne ?_
  obtain ⟨-, -, -, hsumf⟩ := (validate_iff cfg f r).mp hf
  obtain ⟨-, -, -, hsumg⟩ := (validate_iff cfg g r).mp hg
  have hsum : checksum f = checksum g := by rw [← hsumf, ← hsumg, hother 12 (by omega) (by omega)]
  exact getElem_eq_of_checksum_eq ⟨j, hj⟩ (fun k hk => hother k (by omega) (Fin.val_ne_of_ne hk)) hsum

/-! ### What the operations answer -/

/-- `t` differs from `s` in the fault's registers and the port's answer only (R110). -/
def OnlyFaultAndAnswer (s t : State) : Prop :=
  t = { s with
    block := { s.block with fault := t.block.fault, faultcode := t.block.faultcode, faultinfo := t.block.faultinfo }
    status := t.status
    res := t.res
    draws := t.draws }

section
variable (s : State)

theorem windowFault_onlyFaultAndAnswer (code : BitVec 4) (info : BitVec 16) :
    OnlyFaultAndAnswer s (s.windowFault code info) := rfl

theorem answer_onlyFaultAndAnswer (k : Nat) (v : ResWord) : OnlyFaultAndAnswer s (s.answer k v) := rfl

theorem refuse_onlyFaultAndAnswer (st : Status) : OnlyFaultAndAnswer s (s.refuse st) := rfl

end

/-- Settles O22: the only outcomes are a WindowFault, an answer and a refusal, and each writes those fields only. -/
theorem codecAndDecodersKeepParserAndDescriptors : Obligations.CodecAndDecodersKeepParserAndDescriptors :=
  fun i s t hi h => exec_codec_induct i s t (OnlyFaultAndAnswer s) hi h (windowFault_onlyFaultAndAnswer s)
    (answer_onlyFaultAndAnswer s) (refuse_onlyFaultAndAnswer s)

/-- A state that answers the number `v` on all of RES (R90). -/
theorem exists_answer_natRes (s : State) (v : Nat) (h : v < 2 ^ 104) :
    ∃ t, (.next (s.answer 104 (natRes v)) : Outcome) = .next t ∧ t.status = .ok ∧ t.res.toNat = v ∧ OnlyAnswer s t :=
  ⟨_, rfl, rfl, natRes_toNat v h, answer_onlyAnswer s 104 _⟩

/-- A state that answers the Boolean `b` in bit 0 of RES (R90). -/
theorem exists_answer_boolRes (s : State) (b : Bool) :
    ∃ t, (.next (s.answer 1 (boolRes b)) : Outcome) = .next t ∧ t.status = .ok ∧ OnlyAnswer s t ∧
      t.res.getLsbD 0 = b :=
  ⟨_, rfl, rfl, answer_onlyAnswer s 1 _, overlay_boolRes b _⟩

/-- Settles O23: the checksum as a number on RES. -/
theorem checksumAnswersTheSumModulo256 : Obligations.ChecksumAnswersTheSumModulo256 := by
  intro f s hg
  rw [exec_checksum s f hg, ← checksum_toNat]
  exact exists_answer_natRes s _ (by omega)

/-- Settles O24: the frame is `encodeFrame` of the operands. -/
theorem encodeBuildsTheFrame : Obligations.EncodeBuildsTheFrame := by
  intro c r p s hg
  have hpay (i : Nat) (h : i < 8) : (encodeFrame s.cfg c r p)[4 + i] = p[i] := by
    rw [← payloadOf_getElem _ i h]
    simp only [payloadOf_encodeFrame]
  have hsum := checksum_toNat (encodeFrame s.cfg c r p)
  rw [← encodeFrame_checksum] at hsum
  exact ⟨_, encodeFrame s.cfg c r p, exec_encode s c r p hg, rfl, rfl, rfl, by cases r <;> rfl, rfl, rfl, hpay, hsum,
    answer_onlyAnswer s 104 _⟩

/-- Settles O25: the 80 bits of the result are inside the part of RES that is not free. -/
theorem decodeAnswersAddressCommandPayload : Obligations.DecodeAnswersAddressCommandPayload := by
  intro f s hg
  refine ⟨_, exec_decode s f hg, rfl, ?_, answer_onlyAnswer s 80 _⟩
  calc (overlay 80 (decodedRes f) (Config.freeRes s.draws)).extractLsb' 0 80
      = (decodedRes f).extractLsb' 0 80 := overlay_extract 80 0 80 _ _ (by omega)
    _ = _ := by rw [decodedRes, extract_setWidth _ 0 80 (by omega) (by omega), extract_whole]

/-- Settles O26: bit 0 of RES is `validate`, which is the four tests and the empty error mask. -/
theorem validateAnswersTheFourTests : Obligations.ValidateAnswersTheFourTests := by
  intro f r s hg
  obtain ⟨t, hexec, hok, honly, hbit⟩ := exists_answer_boolRes s (validate s.cfg f r)
  refine ⟨t, (exec_validate s f r hg).trans hexec, hok, honly, ?_, ?_⟩
  · rw [hbit, validate_iff, ← checksum_toNat, BitVec.toNat_inj]
    cases r <;> rfl
  · rw [hbit, errMask_eq_zero_iff]

/-- Settles O27: inside the window a read of n bytes is their big-endian number, which fits on RES. -/
theorem accessorsReadTheWindowBigEndian : Obligations.AccessorsReadTheWindowBigEndian := by
  intro f off s hg
  refine ⟨fun h => ?_, fun h => ?_, fun h => ?_⟩
  · rw [exec_getU8 s f off hg, withRead_one s f off _ h]
    exact exists_answer_natRes s _ (by omega)
  · rw [exec_getU16 s f off hg, withRead_two s f off _ h]
    exact exists_answer_natRes s _ (by omega)
  · rw [exec_getU32 s f off hg, withRead_four s f off _ h]
    exact exists_answer_natRes s _ (by omega)

/-- Inside the window a bit read answers bit `pos` of frame byte `4 + off`, mirrored without BIT_LSB0 (R62, R118). -/
theorem exists_answer_byteBit (s : State) (f : Frame) (off pos : Nat) (h : 4 + off < 13) :
    ∃ t, (.next (s.answer 1 (boolRes (byteBit s.cfg (BitVec.ofNat 8 f[4 + off].toNat) pos))) : Outcome) = .next t ∧
      t.status = .ok ∧ OnlyAnswer s t ∧
      t.res.getLsbD 0 = f[4 + off].getLsbD (if s.cfg.bitLsb0 then pos else 7 - pos) := by
  rw [BitVec.ofNat_toNat, BitVec.setWidth_eq]
  exact exists_answer_boolRes s _

/-- Settles O28: linear index `idx` is the bit read at offset `idx / 8` and position `idx % 8`. -/
theorem bitAccessorsReadOneBit : Obligations.BitAccessorsReadOneBit := by
  intro f s hg
  refine ⟨fun off pos hoff hpos => ?_, fun idx hidx => ?_⟩
  · rw [exec_getBit s f off pos hg, withRead_one s f off _ (by omega), if_neg (by omega)]
    exact exists_answer_byteBit s f off.toNat pos.toNat (by omega)
  · have hoff : (BitVec.ofNat 8 (idx.toNat / 8)).toNat = idx.toNat / 8 := by
      rw [BitVec.toNat_ofNat]
      omega
    rw [exec_getBitL s f idx hg, if_neg (by omega), withRead_one s f _ _ (by omega)]
    simp only [hoff]
    exact exists_answer_byteBit s f (idx.toNat / 8) (idx.toNat % 8) (by omega)

end Sys2Proof.Machine

/-! Proofs for spec/41_parser.md: what one byte answers at each position of the parser, what a DRAIN is in terms of byte
steps, what becomes of a whole frame and of noise, and on what the parser's registers depend. -/

namespace Sys2Proof.Machine

/-! ### The parser's registers -/

theorem parserRegs_eq_iff {a b : Block} :
    a.parserRegs = b.parserRegs ↔ a.rxbuf = b.rxbuf ∧ a.pstate = b.pstate ∧ a.rxidx = b.rxidx := by
  simp [Block.parserRegs]

/-- ROUTE keeps the parser's registers (R173). -/
theorem routeFrame_parserRegs (s : State) (f : Frame) : (s.routeFrame f).block.parserRegs = s.block.parserRegs := by
  obtain ⟨d, events, e⟩ := routeFrame_frame s f
  rw [e]
  rfl

/-- Writing the position that stands already writes RXBUF only. -/
theorem withParser_of_position {s : State} {p : PState} {i : BitVec 4} (hp : s.block.pstate = p)
    (hi : s.block.rxidx = i) (buf : Vector Byte 13) :
    s.withParser buf p i = { s with block := { s.block with rxbuf := buf } } := by
  rw [← hp, ← hi]

/-! ### Operations of the receiver whose byte steps are known -/

section
variable {now : Time} {ok : Bool} {s u : State} (hg : s.Good)
include hg

/-- RXBYTE answers the state of its byte step (R140). -/
theorem exec_rxByte_of_ok {b : Byte} (h : rxByte b (s.setPins now ok) = .ok u) :
    exec (.rxByte b now ok) s = .next u.done := by
  rw [exec_rxByte s b now ok hg, h]
  rfl

/-- A byte step that only writes the parser's registers: no event and no descriptor row (R141, R142, R143). -/
theorem exec_rxByte_afterByte {b : Byte} {buf : Vector Byte 13} {p : PState} {i : BitVec 4}
    (h : rxByte b (s.setPins now ok) = .ok ((s.setPins now ok).withParser buf p i)) :
    ∃ r, exec (.rxByte b now ok) s = .next (afterByte s now ok buf p i [] r) := by
  refine ⟨Config.freeRes s.draws, ?_⟩
  rw [exec_rxByte_of_ok hg h]
  simp [afterByte, State.done, State.setPins]

/-- A FRAME13 instruction answers the state that its 13 bytes leave (R93). -/
theorem exec_frame_of_ok {i : Instr} {f : Frame} (hi : frameOf i = some (f, now, ok))
    (h : receiveBytes f.toList (s.setPins now ok) = .ok u) : exec i s = .next u.done := by
  rw [exec_frame i f now ok s hi, receiveFrame, guarded_good s _ hg, h]
  rfl

/-- DRAIN answers the number of bytes its loop took (R147). -/
theorem exec_drain_of_ok {n : Nat} (h : drainBytes (s.setPins now ok) = .ok (n, u)) :
    exec (.drain now ok) s = .next (u.answer 104 (natRes n)) := by
  rw [exec_drain s now ok hg, h]

/-- DRAIN with a silent link is the byte steps of RXQ, counted (R147). -/
theorem exec_drain_silent (hs : s.script = [])
    (h : receiveBytes s.rxq { s with now := now, decodeOk := ok, rxq := [] } = .ok u) :
    exec (.drain now ok) s = .next (u.answer 104 (natRes s.rxq.length)) :=
  exec_drain_of_ok hg ((drainBytes_silent (s.setPins now ok) hs).trans
    (congrArg (Except.map fun t => (s.rxq.length, t)) h))

/-- TXFRAME is the loop of DRAIN once the frame is written, and answers what the link answered (R148). -/
theorem exec_txFrame_of_ok {f : Frame} {n : Nat}
    (h : drainBytes (((s.setPins now ok).emit (.transmit f)).write f) = .ok (n, u)) :
    exec (.txFrame f now ok) s = .next (u.answer 1 (boolRes s.writeAnswer)) := by
  rw [exec_txFrame s f now ok hg]
  dsimp only
  rw [h]
  rfl

end

/-! ### One byte -/

/-- The header's address test as the range it stands for (R142). -/
theorem addrInRange_eq_true_iff {cfg : Configuration} {a : Byte} :
    addrInRange cfg a = true ↔ cfg.rxAddrMin.toNat ≤ a.toNat ∧ a.toNat ≤ cfg.rxAddrMax.toNat := by
  simp [addrInRange]

theorem addrInRange_eq_false_iff {cfg : Configuration} {a : Byte} :
    addrInRange cfg a = false ↔ ¬ (cfg.rxAddrMin.toNat ≤ a.toNat ∧ a.toNat ≤ cfg.rxAddrMax.toNat) := by
  rw [← addrInRange_eq_true_iff, Bool.not_eq_true]

/-- Settles O34: a start byte is the only one that the byte step takes in WaitingForStart. -/
theorem rxByteWhileWaitingForStart : Obligations.RxByteWhileWaitingForStart := by
  intro b now ok s hg hp
  refine ⟨fun hb => ?_, fun hb => ?_⟩
  · subst hb
    exact exec_rxByte_afterByte hg (rxByte_wfs_start (s.setPins now ok) hp)
  · have hkeep := withParser_of_position (s := s.setPins now ok) hp rfl s.block.rxbuf
    exact exec_rxByte_afterByte hg ((rxByte_wfs_other b (s.setPins now ok) hp hb).trans (congrArg Except.ok hkeep.symm))

/-- Settles O35: the address test of the byte step is the negated range, and HDR_CHECK_AT is its index. -/
theorem rxByteInTheHeader : Obligations.RxByteInTheHeader := by
  intro b now ok s h hg hp buf i inRange checked
  have hstep := rxByte_hdr b (s.setPins now ok) hp h
  have habort : (s.block.rxidx.toNat + 1 = s.cfg.hdrCheck.index ∧ addrInRange s.cfg buf[1] = false) ↔
      checked ∧ ¬ inRange := and_congr Iff.rfl addrInRange_eq_false_iff
  refine ⟨fun ha => ?_, fun ha h4 => ?_, fun ha h4 => ?_⟩
  · exact exec_rxByte_afterByte hg (hstep.trans (congrArg Except.ok (if_pos (habort.mpr ha))))
  · exact exec_rxByte_afterByte hg (hstep.trans (congrArg Except.ok ((if_neg (mt habort.mp ha)).trans (if_pos h4))))
  · exact exec_rxByte_afterByte hg (hstep.trans (congrArg Except.ok ((if_neg (mt habort.mp ha)).trans (if_neg h4))))

/-- Settles O36: short of the last byte RXIDX advances; the last byte completes the window, where only a valid frame
reaches ROUTE. -/
theorem rxByteInTheContent : Obligations.RxByteInTheContent := by
  intro b now ok s h hg hp buf i
  refine ⟨fun hi => ?_, fun hi hv => ?_, fun hi hv => ?_⟩
  case refine_1 =>
    exact exec_rxByte_afterByte hg (rxByte_cnt_inside b (s.setPins now ok) hp (Nat.lt_of_succ_lt_succ hi))
  all_goals
    have hidx : s.block.rxidx.toNat = 12 := Nat.succ.inj hi
    have hbuf : buf = s.block.rxbuf.set 12 b := by simp only [buf, hidx]
    rw [hbuf] at hv ⊢
  case refine_2 =>
    exact ⟨_, exec_rxByte_of_ok hg (rxByte_cnt_error b (s.setPins now ok) hp hidx hv)⟩
  case refine_3 =>
    exact ⟨_, exec_rxByte_of_ok hg (rxByte_cnt_valid b (s.setPins now ok) hp hidx hv), exec_route _ _ now ok hg⟩

/-! ### RXPOLL, DRAIN and TXFRAME -/

/-- Settles O38: RXPOLL and RXBYTE end in the same byte step and differ in the answer given to it. -/
theorem rxPollTakesTheOldestByte : Obligations.RxPollTakesTheOldestByte := by
  intro now ok s hg
  refine ⟨fun hq => ⟨_, ?_, overlay_boolRes false (Config.freeRes s.draws)⟩, fun b q hq hp => ?_⟩
  · rw [exec_rxPoll s now ok hg, poll_empty (s.setPins now ok) hq]
    rfl
  · obtain ⟨u, hu⟩ := rxByte_total b ({ s with rxq := q }.setPins now ok) (parserOk_index hp)
    refine ⟨u.answer 1 (boolRes true), u.done, ?_, exec_rxByte_of_ok (s := { s with rxq := q }) hg hu,
      overlay_boolRes true _, rfl⟩
    rw [exec_rxPoll s now ok hg, poll_cons (s.setPins now ok) b q hq]
    change answering (rxByte b ({ s with rxq := q }.setPins now ok)) _ = _
    rw [hu]
    rfl

/-- Settles O39: the byte steps of RXQ, once as the loop of DRAIN and once as RXBYTE operations. -/
theorem drainReceivesTheQueueInOrder : Obligations.DrainReceivesTheQueueInOrder := by
  intro now ok s hg hp hs
  obtain ⟨u, hu, -⟩ := receiveBytes_total s.rxq ({ s with rxq := [] }.setPins now ok) hp
  obtain ⟨t', hrun, hfields, -⟩ := runAll_rxByte s.rxq now ok { s with rxq := [] } u hg hu
  refine ⟨u.answer 104 (natRes s.rxq.length), t', exec_drain_silent hg hs hu, rfl, rfl, hrun, ?_⟩
  rw [hfields]
  rfl

/-- Settles O40: the loop of DRAIN with one turn more than the bytes it can meet, run beside RXBYTE operations that
start from RXQ empty. -/
theorem drainEndsAtTheFirstEmptyPoll : Obligations.DrainEndsAtTheFirstEmptyPoll := by
  intro now ok s hg hp
  obtain ⟨t, t', k, hloop, hk, hleast, hpt, hgt, hrun, ht', ht⟩ :=
    drainLoop_run ((s.setPins now ok).pending + 1) 0 (s.setPins now ok) { s with rxq := [] } hp hg (Nat.lt_succ_self _)
      rfl rfl rfl
  have hdrain : drainBytes (s.setPins now ok) = .ok ((s.rxq ++ appended (s.script.take k)).length, t) := by
    rw [drainBytes, hloop, Nat.zero_add]
    rfl
  refine ⟨t.answer 104 (natRes (s.rxq ++ appended (s.script.take k)).length), t', k, exec_drain_of_ok hg hdrain, rfl,
    ?_, hk, hleast, rfl, ?_, ?_, ?_, ?_, hpt, hgt, hrun, ?_⟩
  case refine_6 => rw [ht', ht]; rfl
  all_goals rw [ht]; rfl

/-- The link's next answer is the first that is listed (R71). -/
theorem writeAnswer_of_cons {s : State} {b : Bool} {rest : List Bool} (h : s.txok = b :: rest) : s.writeAnswer = b := by
  simp only [State.writeAnswer, h]

/-- Settles O41: TXFRAME and DRAIN end in the same loop and differ in the answer given to it. -/
theorem txFrameTransmitsThenDrains : Obligations.TxFrameTransmitsThenDrains := by
  intro f now ok s hg hp
  obtain ⟨n, u, hu, -⟩ := drainLoop_total _ 0 (((s.setPins now ok).emit (.transmit f)).write f) hp
  refine ⟨u.answer 1 (boolRes s.writeAnswer), u.answer 104 (natRes n), exec_txFrame_of_ok hg hu,
    exec_drain_of_ok (s := (s.emit (.transmit f)).write f) hg hu, fun b rest htx => ?_, rfl⟩
  rw [← writeAnswer_of_cons htx]
  exact overlay_boolRes _ _

/-! ### Whole frames -/

section
variable {s : State} {f : Frame} (hp : s.block.pstate = .wfs) (hx : s.block.rxidx = 0)
  (ha : addrInRange s.cfg f[1] = true)
include hp hx ha

/-- A valid frame from (WFS, 0), its address in range: it has the start byte, and it is routed from (WFS, 0) (R143). -/
theorem receive_valid_frame (hv : validate s.cfg f .dev2host = true) :
    receiveBytes f.toList s =
      .ok ((State.emit { s with block := { s.block with rxbuf := f } } (.receive f)).routeFrame f) := by
  rw [receive_frame s f hp ((validate_iff s.cfg f .dev2host).mp hv).1 ha, if_pos hv, withParser_of_position hp hx]

/-- A frame from (WFS, 0) that does not validate, its address in range (R143). -/
theorem receive_invalid_frame (h0 : f[0] = s.cfg.startByte) (hv : validate s.cfg f .dev2host = false) :
    receiveBytes f.toList s = .ok (State.emit { s with block := { s.block with rxbuf := f } } (.error f)) := by
  rw [receive_frame s f hp h0 ha, if_neg (by simp [hv]), withParser_of_position hp hx]

end

/-- Settles O43: ROUTE leaves the position where the frame's end put it. -/
theorem validFrameIsReceivedAndRouted : Obligations.ValidFrameIsReceivedAndRouted := by
  intro i f now ok s hi hg hp hx hv hmin hmax
  have ha : addrInRange s.cfg f[1] = true := addrInRange_eq_true_iff.mpr ⟨hmin, hmax⟩
  have hexec := exec_frame_of_ok hg hi (receive_valid_frame (s := s.setPins now ok) hp hx ha hv)
  obtain ⟨-, hps, hidx⟩ := parserRegs_eq_iff.mp (routeFrame_parserRegs
    (State.emit { s.setPins now ok with block := { s.block with rxbuf := f } } (.receive f)) f)
  exact ⟨_, hexec, hps.trans hp, hidx.trans hx, exec_route _ f now ok hg⟩

/-- Settles O44: the frame's last byte finds that it does not validate. -/
theorem invalidFrameIsAnError : Obligations.InvalidFrameIsAnError := by
  intro i f now ok s hi hg hp hx h0 hv hmin hmax
  have ha : addrInRange s.cfg f[1] = true := addrInRange_eq_true_iff.mpr ⟨hmin, hmax⟩
  exact ⟨_, exec_frame_of_ok hg hi (receive_invalid_frame (s := s.setPins now ok) hp hx ha h0 hv)⟩

/-! ### Noise and the frames of other participants -/

/-- In WaitingForStart bytes other than the start byte are discarded (R141). -/
theorem receiveBytes_noise {bs : List Byte} {s : State} (hp : s.block.pstate = .wfs) (hbs : s.cfg.startByte ∉ bs) :
    receiveBytes bs s = .ok s := by
  induction bs with
  | nil => rfl
  | cons b bs ih =>
    obtain ⟨hb, hbs⟩ := List.ne_and_not_mem_of_not_mem_cons hbs
    rw [receiveBytes_cons_ok (rxByte_wfs_other b s hp hb.symm)]
    exact ih hbs

/-- Settles O46: RXQ is polled empty and every byte of it is discarded. -/
theorem noiseWithoutStartByteLeavesNoTrace : Obligations.NoiseWithoutStartByteLeavesNoTrace := by
  intro now ok s hg hp hs hq
  exact ⟨_, exec_drain_silent hg hs (receiveBytes_noise hp hq), answer_onlyAnswer _ _ _⟩

section
variable {s : State} (hc : s.cfg.hdrCheck = .afterHeader) (buf : Vector Byte 13) (b : Byte)
include hc

/-- With the address test after the header, the bytes before its last only advance RXIDX (R142). -/
theorem rxByte_header_unchecked (k : Nat) (hk : k < 3) :
    rxByte b (s.withParser buf .hdr (BitVec.ofNat 4 k)) =
      .ok (s.withParser (buf.set k b) .hdr (BitVec.ofNat 4 (k + 1))) := by
  have hidx : (BitVec.ofNat 4 k).toNat = k := rxidx_ofNat k (by omega)
  have h := rxByte_hdr_advance b (s.withParser buf .hdr (BitVec.ofNat 4 k)) rfl
  simp only [hidx, hc, HdrCheck.index] at h
  exact h (by omega) (by omega) (by omega)

/-- The fourth header byte of a frame whose address is out of range (R142). -/
theorem rxByte_header_drop (ha : addrInRange s.cfg buf[1] = false) :
    rxByte b (s.withParser buf .hdr (BitVec.ofNat 4 3)) = .ok (s.withParser (buf.set 3 b) .wfs 0) :=
  rxByte_hdr_abort b (s.withParser buf .hdr (BitVec.ofNat 4 3)) rfl (show 3 < 13 by decide)
    (by simp [hc, HdrCheck.index]) (by simpa using ha)

end

/-- RXBUF with the four header bytes of a frame stored. -/
def storeHeader (buf : Vector Byte 13) (f : Frame) : Vector Byte 13 :=
  (((buf.set 0 f[0]).set 1 f[1]).set 2 f[2]).set 3 f[3]

theorem storeHeader_getElem (buf : Vector Byte 13) (f : Frame) (j : Nat) (hj : j < 13) :
    (storeHeader buf f)[j] = if j < 4 then f[j] else buf[j] := by
  unfold storeHeader
  interval_cases j <;> simp

/-- The header of a frame whose address is out of range is stored and dropped (R142). -/
theorem receive_header_drop {s : State} {f : Frame} (hp : s.block.pstate = .wfs) (h0 : f[0] = s.cfg.startByte)
    (hc : s.cfg.hdrCheck = .afterHeader) (ha : addrInRange s.cfg f[1] = false) :
    receiveBytes [f[0], f[1], f[2], f[3]] s = .ok (s.withParser (storeHeader s.block.rxbuf f) .wfs 0) := by
  have hstart := rxByte_wfs_start s hp
  rw [← h0] at hstart
  rw [receiveBytes_cons_ok hstart]
  change receiveBytes _ (s.withParser _ .hdr (BitVec.ofNat 4 1)) = _
  rw [receiveBytes_cons_ok (rxByte_header_unchecked hc _ f[1] 1 (by omega)),
    receiveBytes_cons_ok (rxByte_header_unchecked hc _ f[2] 2 (by omega)),
    receiveBytes_cons_ok (rxByte_header_drop hc _ f[3] (by simpa using ha))]
  rfl

/-- Settles O45: the header ends in an abort, and the nine bytes after it are noise. -/
theorem frameOfAnotherParticipantIsDropped : Obligations.FrameOfAnotherParticipantIsDropped := by
  intro i f now ok s hi hg hp hx h0 hc hout hrest
  have ha : addrInRange s.cfg f[1] = false := addrInRange_eq_false_iff.mpr (by omega)
  have hnoise : s.cfg.startByte ∉ f.toList.drop 4 := by
    intro hmem
    obtain ⟨j, hj, e⟩ := List.mem_drop_iff_getElem.mp hmem
    have hlen : f.toList.length = 13 := f.length_toList
    exact hrest (4 + j) (by omega) (by omega) (by simpa using e)
  have hbytes : receiveBytes f.toList (s.setPins now ok) =
      .ok ((s.setPins now ok).withParser (storeHeader s.block.rxbuf f) .wfs 0) :=
    calc receiveBytes f.toList (s.setPins now ok)
      _ = receiveBytes ([f[0], f[1], f[2], f[3]] ++ f.toList.drop 4) (s.setPins now ok) := by simp [frame_toList]
      _ = receiveBytes (f.toList.drop 4) ((s.setPins now ok).withParser (storeHeader s.block.rxbuf f) .wfs 0) :=
        receiveBytes_append _ _ (receive_header_drop hp h0 hc ha)
      _ = _ := receiveBytes_noise rfl hnoise
  rw [withParser_of_position (s := s.setPins now ok) hp hx] at hbytes
  exact ⟨_, exec_frame_of_ok hg hi hbytes, rfl, rfl, storeHeader_getElem s.block.rxbuf f⟩

/-! ### On what the parser's registers depend -/

/-- Two states of one configuration with the same parser's registers. -/
structure SameParser (s u : State) : Prop where
  cfg : u.cfg = s.cfg
  regs : u.block.parserRegs = s.block.parserRegs

/-- The parser's registers after the last byte of a window, valid or not (R143). -/
theorem rxByte_cnt_last_parserRegs {b : Byte} {s t : State} (hp : s.block.pstate = .cnt)
    (hi : s.block.rxidx.toNat = 12) (h : rxByte b s = .ok t) :
    t.block.parserRegs = (s.block.rxbuf.set 12 b, .wfs, 0) := by
  rw [rxByte_cnt_last b s hp hi] at h
  cases h
  split
  · rw [routeFrame_parserRegs]
    rfl
  · rfl

/-- The parser's registers after a byte step depend on those before it, the byte and the configuration (R140). -/
theorem SameParser.of_rxByte {b : Byte} {s u t v : State} (h : SameParser s u) (hok : s.block.ParserOk)
    (hs : rxByte b s = .ok t) (hu : rxByte b u = .ok v) : SameParser t v := by
  have hcfg : v.cfg = t.cfg := by
    obtain ⟨_, _, rfl⟩ := rxByte_frame hs
    obtain ⟨_, _, rfl⟩ := rxByte_frame hu
    exact h.cfg
  refine ⟨hcfg, ?_⟩
  obtain ⟨hbuf, hps, hidx⟩ := parserRegs_eq_iff.mp h.regs
  have hi : s.block.rxidx.toNat < 13 := parserOk_index hok
  cases hp : s.block.pstate with
  | wfs =>
    by_cases hb : b = s.cfg.startByte
    · subst hb
      rw [rxByte_wfs_start s hp] at hs
      rw [← h.cfg, rxByte_wfs_start u (hps.trans hp)] at hu
      cases hs; cases hu
      simp [Block.parserRegs, hbuf, h.cfg]
    · rw [rxByte_wfs_other b s hp hb] at hs
      rw [rxByte_wfs_other b u (hps.trans hp) (h.cfg ▸ hb)] at hu
      cases hs; cases hu
      exact h.regs
  | hdr =>
    rw [rxByte_hdr b s hp hi] at hs
    rw [rxByte_hdr b u (hps.trans hp) (hidx ▸ hi)] at hu
    simp only [hbuf, hidx, h.cfg] at hu
    cases hs; cases hu
    split_ifs <;> rfl
  | cnt =>
    rcases Nat.lt_or_ge s.block.rxidx.toNat 12 with hlt | hge
    · rw [rxByte_cnt_inside b s hp hlt] at hs
      rw [rxByte_cnt_inside b u (hps.trans hp) (hidx ▸ hlt)] at hu
      cases hs; cases hu
      simp [Block.parserRegs, hbuf, hidx]
    · have hlast : s.block.rxidx.toNat = 12 := by omega
      rw [rxByte_cnt_last_parserRegs hp hlast hs,
        rxByte_cnt_last_parserRegs (hps.trans hp) (hidx ▸ hlast) hu, hbuf]

/-- RXBYTE operations with any NOW and DECODE_OK and the receiver's run of the same bytes leave the same parser's
registers. -/
theorem SameParser.of_runAll {s u : State} (h : SameParser s u) (hg : s.Good) (hok : s.block.ParserOk)
    (bs : List (Byte × Time × Bool)) :
    ∃ t v, runAll (bs.map fun x => .rxByte x.1 x.2.1 x.2.2) s = .next t ∧ receiveBytes (bs.map Prod.fst) u = .ok v ∧
      SameParser t v := by
  induction bs generalizing s u with
  | nil => exact ⟨s, u, rfl, rfl, h⟩
  | cons x bs ih =>
    obtain ⟨b, now, ok⟩ := x
    have hidx : u.block.rxidx = s.block.rxidx := (parserRegs_eq_iff.mp h.regs).2.2
    obtain ⟨t, ht⟩ := rxByte_total b (s.setPins now ok) (parserOk_index hok)
    obtain ⟨v, hv⟩ := rxByte_total b u (hidx ▸ parserOk_index hok)
    have hstep : SameParser t v := SameParser.of_rxByte (s := s.setPins now ok) ⟨h.cfg, h.regs⟩ hok ht hv
    have hgt : t.Good := (rxByte_faultRegs ht).1.trans hg
    have hokt : t.block.ParserOk := rxByte_parserOk ht hok
    obtain ⟨t', v', hrun, hrecv, hsame⟩ := ih (s := t.done) ⟨hstep.cfg, hstep.regs⟩ hgt hokt
    refine ⟨t', v', ?_, ?_, hsame⟩
    · rw [List.map_cons, runAll, exec_rxByte_of_ok hg ht]
      exact hrun
    · rw [List.map_cons, receiveBytes_cons_ok hv]
      exact hrecv

/-- Settles O47: the DRAIN is the receiver's run of its queue; pins and queue are no registers of the parser. -/
theorem parserDependsOnTheBytesOnly : Obligations.ParserDependsOnTheBytesOnly := by
  intro s u bs now ok hgs hgu hok hcfg hregs hs hq
  have hsame : SameParser s { u with now := now, decodeOk := ok, rxq := [] } := ⟨hcfg.symm, hregs.symm⟩
  obtain ⟨t, v, hrun, hrecv, htv⟩ := hsame.of_runAll hgs hok bs
  rw [← hq] at hrecv
  exact ⟨t, _, hrun, exec_drain_silent hgu hs hrecv, htv.regs.symm⟩

end Sys2Proof.Machine

/-! Proofs for spec/42_sequencer.md: what an instruction can do to one descriptor row together with the events it emits, then
what the operations of the SEQUENCER answer. -/

namespace Sys2Proof.Machine

/-! ### A row and the events emitted meanwhile -/

/-- From `s` to `t` events were appended to EVQ, and they, with row `c` before and after, satisfy `P`. -/
def RowHistory (P : Desc → List Event → Desc → Prop) (c : CmdCode) (s t : State) : Prop :=
  ∃ new, t.evq = s.evq ++ new ∧ P (s.row c) new (t.row c)

/-- What `P` has to allow to hold of a whole run of the receiver: standing still, one thing after the other, and the two
events that come without a row write. -/
structure HistoryRule (P : Desc → List Event → Desc → Prop) : Prop where
  nil : ∀ d, P d [] d
  append : ∀ {d d' d'' : Desc} {new new' : List Event}, P d new d' → P d' new' d'' → P d (new ++ new') d''
  transmit : ∀ d f, P d [.transmit f] d
  error : ∀ d f, P d [.error f] d

/-- The rule that row `c` changes only with the reception of a frame of `c` (R171). -/
def ChangesOnReceive (c : CmdCode) (d : Desc) (new : List Event) (d' : Desc) : Prop :=
  d' ≠ d → ∃ f : Frame, f[2] = c ∧ .receive f ∈ new

/-- The rule that row `c`, once blocked, stays so, and no frame of `c` is accepted (R186 item 6). -/
def StaysBlocked (c : CmdCode) (d : Desc) (new : List Event) (d' : Desc) : Prop :=
  d.blocked = true → d'.blocked = true ∧ ∀ k p last, .accept c k p last ∉ new

theorem historyRule_changesOnReceive (c : CmdCode) : HistoryRule (ChangesOnReceive c) where
  nil _ hne := absurd rfl hne
  append {d d' _ _ _} h h' hne := by
    by_cases hd : d' = d
    · obtain ⟨f, hf, hmem⟩ := h' (hd ▸ hne)
      exact ⟨f, hf, List.mem_append_right _ hmem⟩
    · obtain ⟨f, hf, hmem⟩ := h hd
      exact ⟨f, hf, List.mem_append_left _ hmem⟩
  transmit _ _ hne := absurd rfl hne
  error _ _ hne := absurd rfl hne

theorem historyRule_staysBlocked (c : CmdCode) : HistoryRule (StaysBlocked c) where
  nil _ hb := ⟨hb, by simp⟩
  append h h' hb := by
    obtain ⟨hb', hnew⟩ := h hb
    obtain ⟨hb'', hnew'⟩ := h' hb'
    exact ⟨hb'', fun k p last hmem => (List.mem_append.mp hmem).elim (hnew k p last) (hnew' k p last)⟩
  transmit _ _ hb := ⟨hb, by simp⟩
  error _ _ hb := ⟨hb, by simp⟩

/-- A history is one of the events that are new since its start. -/
theorem RowHistory.holds_newEvents {P : Desc → List Event → Desc → Prop} {c : CmdCode} {s t : State}
    (h : RowHistory P c s t) : P (s.row c) (newEvents s t) (t.row c) := by
  obtain ⟨new, hevq, hP⟩ := h
  rwa [newEvents_eq hevq]

section
variable {P : Desc → List Event → Desc → Prop} (hP : HistoryRule P) {c : CmdCode}
include hP

theorem HistoryRule.trans (s t u : State) (h : RowHistory P c s t) (h' : RowHistory P c t u) : RowHistory P c s u := by
  obtain ⟨new, hevq, hst⟩ := h
  obtain ⟨new', hevq', htu⟩ := h'
  exact ⟨new ++ new', by rw [hevq', hevq, List.append_assoc], hP.append hst htu⟩

theorem HistoryRule.quiet (s t : State) (hdescs : t.block.descs = s.block.descs) (hevq : t.evq = s.evq) :
    RowHistory P c s t :=
  ⟨[], by simp [hevq], by rw [State.row_congr hdescs]; exact hP.nil _⟩

/-- Every instruction that writes no row itself obeys a rule that the routing of a received frame obeys. -/
theorem HistoryRule.exec_receive
    (hroute : ∀ (s : State) (f : Frame), RowHistory P c s ((s.emit (.receive f)).routeFrame f))
    {i : Instr} {s t : State} (hi : WritesRow i = false) (h : exec i s = .next t) : RowHistory P c s t := by
  refine exec_receive_induct (RowHistory P c) hP.trans hP.quiet (fun b s t hr => ?_)
    (fun s f => ⟨_, rfl, hP.transmit _ f⟩) i s t hi h
  rcases rxByte_cases hr with ⟨buf, p, i, rfl⟩ | ⟨f, -, rfl⟩ | ⟨f, -, rfl⟩
  · exact hP.quiet _ _ rfl rfl
  · exact ⟨_, rfl, hP.error _ f⟩
  · exact hP.trans _ (s.withParser f .wfs 0) _ (hP.quiet _ _ rfl rfl) (hroute _ f)

end

/-! ### Rows change only for their command -/

/-- A received frame of `c` is itself the reception; a frame of another command leaves row `c` alone. -/
theorem receive_routeFrame_changesOnReceive (c : CmdCode) (s : State) (f : Frame) :
    RowHistory (ChangesOnReceive c) c s ((s.emit (.receive f)).routeFrame f) := by
  obtain ⟨d, events, e⟩ := routeFrame_frame (s.emit (.receive f)) f
  refine ⟨.receive f :: events, by rw [e]; simp, fun hne => ?_⟩
  by_cases hc : c = f[2]
  · exact ⟨f, hc.symm, List.mem_cons_self⟩
  · exact absurd (routeFrame_row_ne (s.emit (.receive f)) f c hc) hne

/-- PROCESS leaves every row but its frame's alone (R177, R186 item 1). -/
theorem processFrame_row_ne (s : State) (fam : Family) (f : Frame) {c : CmdCode} (h : c ≠ f[2]) :
    (processFrame s fam f).state.row c = s.row c := by
  obtain ⟨d, events, e⟩ := processFrame_frame s fam f
  rw [e]
  exact Block.row_setRow_ne s.block f[2] d c h

/-- An operation that writes rows itself writes only the row of the command it names. -/
theorem exec_row_of_not_namesCommand {i : Instr} {s t : State} {c : CmdCode} (hi : WritesRow i = true)
    (hc : ¬ NamesCommand c i) (h : exec i s = .next t) : t.row c = s.row c := by
  have hframe {f : Frame} {now : Time} {ok : Bool} (hf : i = .process f now ok ∨ i = .route f now ok) : c ≠ f[2] :=
    fun e => hc (.inr (.inr (.inr ⟨f, now, ok, e.symm, hf⟩)))
  refine exec_row_induct (fun s t => t.row c = s.row c) (fun _ _ _ h h' => h'.trans h)
    (fun _ _ hdescs _ => State.row_congr hdescs c) i s t hi ?prepare ?valid ?count ?route ?process h
  case prepare =>
    rintro c' p rfl
    exact State.row_setRow_ne s c' c _ fun e => hc (.inl ⟨p, by rw [e]⟩)
  case valid =>
    rintro c' now rfl
    exact State.row_setRow_ne (s.setNow now) c' c _ fun e => hc (.inr (.inl ⟨now, by rw [e]⟩))
  case count =>
    rintro c' n rfl
    exact State.row_setRow_ne s c' c _ fun e => hc (.inr (.inr (.inl ⟨n, by rw [e]⟩)))
  case route =>
    intro f now ok hf
    exact routeFrame_row_ne (s.setPins now ok) f c (hframe (.inr hf))
  case process =>
    intro f now ok fam hf _
    exact processFrame_row_ne (s.setPins now ok) fam f (hframe (.inl hf))

/-- Settles O20: an instruction that writes rows itself names their command; in every other the receiver wrote it. -/
theorem rowChangesOnlyForItsCommand : Obligations.RowChangesOnlyForItsCommand := by
  intro i s t c h hne
  cases hi : WritesRow i with
  | true =>
    refine .inl ?_
    by_contra hc
    exact hne (exec_row_of_not_namesCommand hi hc h)
  | false =>
    exact .inr (((historyRule_changesOnReceive c).exec_receive (receive_routeFrame_changesOnReceive c) hi h).holds_newEvents
      hne)

/-! ### A blocked command -/

/-- A row written that stays blocked where it was, and no event. -/
theorem setRow_staysBlocked (s : State) (c c' : CmdCode) (d : Desc)
    (hd : c = c' → (s.row c').blocked = true → d.blocked = true) :
    RowHistory (StaysBlocked c) c s (s.setRow c' d) := by
  refine ⟨[], by simp, fun hb => ⟨?_, by simp⟩⟩
  rw [State.row_setRow]
  split
  · next hc => exact hd hc (hc ▸ hb)
  · exact hb

/-- PROCESS keeps a blocked row blocked: its own, because the frame is rejected and not the next expected one; another,
because neither the row nor an event of its command is written (R174, R186 item 6). -/
theorem processFrame_staysBlocked (c : CmdCode) (s : State) (fam : Family) (f : Frame) :
    RowHistory (StaysBlocked c) c s (processFrame s fam f).state := by
  by_cases hc : c = f[2]
  · subst hc
    rcases processFrame_cases s fam f with ⟨why, -, e⟩ | ⟨⟨hfree, -⟩, -, -, e⟩ | ⟨⟨hfree, -⟩, -, -, e⟩ |
      ⟨⟨hfree, -⟩, -, e⟩ <;> rw [e]
    case inl => exact ⟨_, rfl, fun hb => ⟨by simpa using hb, by simp⟩⟩
    case inr.inr.inr => exact ⟨_, congrArg State.evq (State.emit_emit _ _ _), fun hb => by simp [hfree] at hb⟩
    all_goals exact ⟨_, rfl, fun hb => by simp [hfree] at hb⟩
  · have hrow := processFrame_row_ne s fam f hc
    rcases processFrame_cases s fam f with ⟨why, -, e⟩ | ⟨-, -, -, e⟩ | ⟨-, -, -, e⟩ | ⟨-, -, e⟩ <;> rw [e] at hrow ⊢
    case inr.inr.inr =>
      exact ⟨_, congrArg State.evq (State.emit_emit _ _ _), fun hb => ⟨by rwa [hrow], by simp [hc]⟩⟩
    all_goals exact ⟨_, rfl, fun hb => ⟨by rwa [hrow], by simp [hc]⟩⟩

/-- One event that accepts nothing. -/
theorem emit_staysBlocked (c : CmdCode) (s : State) (e : Event) (he : ∀ k p last, e ≠ .accept c k p last) :
    RowHistory (StaysBlocked c) c s (s.emit e) :=
  ⟨[e], rfl, fun hb => ⟨hb, fun k p last hmem => he k p last (List.mem_singleton.mp hmem).symm⟩⟩

/-- ROUTE is PROCESS with at most an event that accepts nothing (R173). -/
theorem routeFrame_staysBlocked (c : CmdCode) (s : State) (f : Frame) :
    RowHistory (StaysBlocked c) c s (s.routeFrame f) := by
  cases hd : s.desc f[2] with
  | none =>
    rw [routeFrame_absent s f hd]
    exact emit_staysBlocked c s _ (by simp)
  | some fam =>
    have hprocess := processFrame_staysBlocked c s fam f
    cases hc : (processFrame s fam f).completed with
    | false => rwa [routeFrame_incomplete s f fam hd hc]
    | true =>
      rw [routeFrame_complete s f fam hd hc]
      exact (historyRule_staysBlocked c).trans _ _ _ hprocess (emit_staysBlocked c _ _ (by simp))

/-- Settles O21: of the operations that write rows only PREPARE clears BLOCKED, and the receiver writes rows by ROUTE. -/
theorem blockedCommandAcceptsNothingUntilPrepare : Obligations.BlockedCommandAcceptsNothingUntilPrepare := by
  intro i s t c h hblocked hprepare
  have hrule := historyRule_staysBlocked c
  suffices hhist : RowHistory (StaysBlocked c) c s t from hhist.holds_newEvents hblocked
  cases hi : WritesRow i with
  | false =>
    exact hrule.exec_receive (fun s f => hrule.trans _ _ _ (emit_staysBlocked c s (.receive f) (by simp))
      (routeFrame_staysBlocked c _ f)) hi h
  | true =>
    have hpins (now : Time) (ok : Bool) : RowHistory (StaysBlocked c) c s (s.setPins now ok) := hrule.quiet _ _ rfl rfl
    refine exec_row_induct (RowHistory (StaysBlocked c) c) hrule.trans hrule.quiet i s t hi ?prepare ?valid ?count
      ?route ?process h
    case prepare =>
      rintro c' p rfl
      exact setRow_staysBlocked s c c' _ fun e => absurd ⟨p, by rw [e]⟩ hprepare
    case valid =>
      intro c' now _
      exact setRow_staysBlocked (s.setNow now) c c' _ fun _ hb => hb
    case count =>
      intro c' n _
      exact setRow_staysBlocked s c c' _ fun _ hb => hb
    case route =>
      intro f now ok _
      exact hrule.trans _ _ _ (hpins now ok) (routeFrame_staysBlocked c _ f)
    case process =>
      intro f now ok fam _ _
      exact hrule.trans _ _ _ (hpins now ok) (processFrame_staysBlocked c _ fam f)

/-! ### Operations that name a command -/

/-- Settles O49: each of the seven tests PRESENT first. -/
theorem absentCommandIsRefused : Obligations.AbsentCommandIsRefused := by
  intro s c hg hd i hi
  refine ⟨Config.freeRes s.draws, ?_⟩
  rcases hi with ⟨p, rfl⟩ | ⟨now, rfl⟩ | rfl | rfl | rfl | ⟨n, rfl⟩ | ⟨f, now, ok, rfl, rfl⟩
  · exact (exec_prepare s c p hg).trans (withDesc_none s c _ hd)
  · exact (exec_setValid s c now hg).trans (withDesc_none s c _ hd)
  · exact (exec_isReq s c hg).trans (withDesc_none s c _ hd)
  · exact (exec_isValid s c hg).trans (withDesc_none s c _ hd)
  · exact (exec_lastValid s c hg).trans (withDesc_none s c _ hd)
  · exact (exec_setCount s c n hg).trans (withDesc_none s c _ hd)
  · exact (exec_process s f now ok hg).trans (withDesc_none s f[2] _ hd)

/-- Settles O50: the row written and the frame answered on all bits of RES. -/
theorem prepareBuildsTheRequestAndClearsTheCycle : Obligations.PrepareBuildsTheRequestAndClearsTheCycle :=
  fun c p s fam hg hd => (exec_prepare s c p hg).trans (withDesc_some s c _ fam hd)

/-- An operation that wrote one row and has no result, as `afterRow`. -/
theorem setRow_done (s : State) (c : CmdCode) (d : Desc) :
    (s.setRow c d).done = afterRow s s.now s.decodeOk c d [] (Config.freeRes s.draws) := by
  simp [State.done, afterRow, State.setRow]

/-- Settles O51: the row is the one SETVALID writes. -/
theorem setValidStampsTheTime : Obligations.SetValidStampsTheTime := by
  intro c now s fam hg hd
  refine ⟨Config.freeRes s.draws, ?_⟩
  rw [exec_setValid s c now hg, withDesc_some s c _ fam hd]
  exact congrArg Host.Outcome.next (setRow_done (s.setNow now) c _)

/-- `Requestable` is false only for an ARRAY descriptor without a count (R37). -/
theorem requestable_iff (fam : Family) (count : Byte) :
    requestable fam count = true ↔ ∀ per, fam = .array per → count ≠ 0 := by
  cases fam <;> simp [requestable]

/-- Settles O52: three answers about a row that nothing writes. -/
theorem queriesAnswerTheRow : Obligations.QueriesAnswerTheRow := by
  intro c s fam hg hd
  refine ⟨?_, ?_, ?_⟩
  · rw [exec_isReq s c hg, withDesc_some s c _ fam hd, ← requestable_iff]
    obtain ⟨t, hexec, hok, honly, hbit⟩ := exists_answer_boolRes s (requestable fam (s.row c).itemCount)
    exact ⟨t, hexec, hok, honly, by rw [hbit]⟩
  · rw [exec_isValid s c hg, withDesc_some s c _ fam hd]
    exact exists_answer_boolRes s _
  · rw [exec_lastValid s c hg, withDesc_some s c _ fam hd]
    obtain ⟨t, hexec, hok, hres, honly⟩ := exists_answer_natRes s (s.row c).vtime.toNat (by omega)
    exact ⟨t, hexec, hok, honly, hres⟩

/-- Settles O53: only an ARRAY descriptor has an item count to write. -/
theorem setCountWritesArrayRowsOnly : Obligations.SetCountWritesArrayRowsOnly := by
  intro c count s hg
  rw [exec_setCount s c count hg]
  refine ⟨fun per hd => ⟨Config.freeRes s.draws, ?_⟩, fun hd => ⟨Config.freeRes s.draws, ?_⟩⟩
  · rw [withDesc_some s c _ _ hd]
    exact congrArg Host.Outcome.next (setRow_done s c _)
  · rcases hd with hd | ⟨n, hd⟩ <;> rw [withDesc_some s c _ _ hd] <;> rfl

/-- Settles O60: the three branches of REQUEST; RES of PREPARE is the frame that TXFRAME takes. -/
theorem requestSendsOnlyRequestableCommands : Obligations.RequestSendsOnlyRequestableCommands := by
  intro c p now ok s hg
  rw [request, guarded_good s _ hg]
  refine ⟨fun hd => ?_, fun per hd hcount => ?_, fun fam hd hreq => ?_⟩
  · exact ⟨Config.freeRes s.draws, withDesc_none s c _ hd⟩
  · refine ⟨Config.freeRes s.draws, ?_⟩
    have hreq : requestable (.array per) (s.row c).itemCount = false := by simp [requestable, hcount]
    rw [withDesc_some s c _ _ hd, hreq]
    rfl
  · have hprepare := prepareBuildsTheRequestAndClearsTheCycle c p s fam hg hd
    refine ⟨_, hprepare, ?_⟩
    rw [withDesc_some s c _ fam hd, if_pos ((requestable_iff fam _).mpr hreq), show execPrepare c p s = _ from hprepare]
    dsimp only
    rw [wordToFrame_frameToWord]
    rfl

/-! ### PROCESS -/

section
variable {s : State} {f : Frame} {fam : Family} {now : Time} {ok : Bool}

/-- PROCESS of a present command answers what `processFrame` yields (R174). -/
theorem exec_process_present (hg : s.Good) (hd : s.desc f[2] = some fam) :
    exec (.process f now ok) s = .next ((processFrame (s.setPins now ok) fam f).state.answer 1
      (boolRes (processFrame (s.setPins now ok) fam f).accepted)) :=
  (exec_process s f now ok hg).trans (withDesc_some s f[2] _ fam hd)

/-- PROCESS in the form of the claims: one row, some events, the result in bit 0 of RES. -/
theorem exec_process_afterRow (hg : s.Good) (hd : s.desc f[2] = some fam) {d : Desc} {events : List Event}
    {accepted completed : Bool}
    (h : processFrame (s.setPins now ok) fam f =
      ⟨{ (s.setPins now ok).setRow f[2] d with evq := s.evq ++ events }, accepted, completed⟩) :
    ∃ r : ResWord, r.getLsbD 0 = accepted ∧
      exec (.process f now ok) s = .next (afterRow s now ok f[2] d events r) := by
  refine ⟨_, overlay_boolRes accepted (Config.freeRes s.draws), ?_⟩
  rw [exec_process_present hg hd, h]
  rfl

/-- Settles O55: the first test that fails gives the reason. -/
theorem processRejectsAndCounts : Obligations.ProcessRejectsAndCounts := by
  intro f now ok s fam hg hd d n N rejected
  have hreject (why : RejectReason) (hwhy : rejectReason s.cfg fam d.blocked (seqNumber s f) n N = some why) :
      rejected why := exec_process_afterRow hg hd (processFrame_reject (s.setPins now ok) fam f why hwhy)
  refine ⟨fun hb => hreject _ ?_, fun hb hn => hreject _ ?_, fun hb hn hseq => hreject _ ?_⟩
  · simp [rejectReason, hb]
  · simp [rejectReason, hb, hn]
  · rw [← seqOk_iff] at hseq
    simp [rejectReason, hb, Nat.not_lt.mpr hn, hseq]

/-- Settles O56: the outcome of `processFrame` with the counter short of `N`. -/
theorem processAcceptsTheNextFrame : Obligations.ProcessAcceptsTheNextFrame := fun f now s fam hg hd hnext hlast =>
  exec_process_afterRow hg hd (processFrame_accept (s.setPins now true) fam f hnext rfl hlast)

/-- Settles O57: the outcome of `processFrame` with the counter at `N`; no other premise is about earlier frames. -/
theorem processCompletesOnTheLastFrame : Obligations.ProcessCompletesOnTheLastFrame :=
  fun f now s fam hg hd hnext hlast =>
    exec_process_afterRow hg hd (processFrame_complete (s.setPins now true) fam f hnext rfl hlast)

/-- Settles O58: `Accept` and `DecodeFail` are emitted one after the other. -/
theorem decodeFailureBlocksTheCycle : Obligations.DecodeFailureBlocksTheCycle := by
  intro f now s fam hg hd hnext k
  exact exec_process_afterRow hg hd ((processFrame_decodeFail (s.setPins now false) fam f hnext rfl).trans
    (by rw [State.emit_emit]; rfl))

/-- Settles O54: ROUTE and PROCESS run the same `processFrame`, whose `completed` is the condition of `Complete`. -/
theorem routeProcessesOrLogs : Obligations.RouteProcessesOrLogs := by
  intro f now ok s hg
  rw [exec_route s f now ok hg]
  refine ⟨fun hd => ⟨Config.freeRes s.draws, ?_⟩, fun fam hd => ?_⟩
  · rw [routeFrame_absent (s.setPins now ok) f hd]
    rfl
  · have hcompleted := processFrame_completed_iff (s.setPins now ok) fam f
    refine ⟨_, _, rfl, exec_process_present hg hd, fun hc => ?_, fun hc => ?_⟩
    · rw [routeFrame_complete (s.setPins now ok) f fam hd (hcompleted.mpr hc)]
      rfl
    · rw [routeFrame_incomplete (s.setPins now ok) f fam hd (Bool.eq_false_iff.mpr fun h => hc (hcompleted.mp h))]
      rfl

end

/-! ### A cycle of frames in order -/

/-- Operations one after the other: the second run starts where the first ends (R72). -/
theorem runAll_append {is js : List Instr} {s t : State} (h : runAll is s = .next t) :
    runAll (is ++ js) s = runAll js t := by
  induction is generalizing s with
  | nil => cases h; rfl
  | cons i is ih =>
    rw [List.cons_append]
    rw [runAll] at h ⊢
    split at h
    · next u hu => simpa only [hu] using ih h
    · cases h
    · cases h

/-- One more frame to PROCESS after a run of them. -/
theorem runAll_process_concat {fs : List Frame} {f : Frame} {now : Time} {s t u : State}
    (hrun : runAll (fs.map fun f => .process f now true) s = .next t) (hexec : exec (.process f now true) t = .next u) :
    runAll ((fs ++ [f]).map fun f => .process f now true) s = .next u := by
  rw [List.map_append, runAll_append hrun]
  simp only [List.map_cons, List.map_nil, runAll, hexec]

/-- The `Accept` events of frames numbered from 1 in a cycle of `N` (R186 item 3). -/
def acceptsInOrder (c : CmdCode) (N : Nat) (fs : List Frame) : List Event :=
  (List.range fs.length).zipWith (fun j f => .accept c (j + 1) (payloadOf f) (decide (j + 1 = N))) fs

theorem acceptsInOrder_append (c : CmdCode) (N : Nat) (fs : List Frame) (f : Frame) :
    acceptsInOrder c N (fs ++ [f]) =
      acceptsInOrder c N fs ++ [.accept c (fs.length + 1) (payloadOf f) (decide (fs.length + 1 = N))] := by
  simp [acceptsInOrder, List.range_succ, List.zipWith_append]

/-- No descriptor expects more frames than its counter can count: the counts of R33 and R32 are bytes (R36). -/
theorem expectedCount_lt (s : State) (c : CmdCode) (fam : Family) : expectedCount s c fam < 65535 := by
  cases fam with
  | single => simp [expectedCount]
  | seq n => have := n.val.isLt; simp only [expectedCount]; omega
  | array per =>
    have hdiv := Nat.div_le_self ((s.row c).itemCount.toNat + per.val.toNat - 1) per.val.toNat
    have := per.val.isLt
    have := (s.row c).itemCount.isLt
    simp only [expectedCount]
    omega

/-- In every family the frame that carries the number of the counter is in sequence, and that is its index (R175). -/
theorem nextExpected_of_seqNumber {s : State} {fam : Family} {f : Frame} (hb : (s.row f[2]).blocked = false)
    (hn : countAfter s f[2] ≤ expectedCount s f[2] fam) (hseq : seqNumber s f = countAfter s f[2]) :
    NextExpected s fam f ∧ acceptedIndex (seqNumber s f) (countAfter s f[2]) fam = countAfter s f[2] := by
  have hpos : 1 ≤ countAfter s f[2] := by simp only [countAfter]; omega
  cases fam with
  | single => exact ⟨⟨hb, hn, trivial⟩, rfl⟩
  | seq n => exact ⟨⟨hb, hn, hseq⟩, rfl⟩
  | array per => exact ⟨⟨hb, hn, by omega, by omega, .inl hseq⟩, hseq⟩

/-- `t` after the frames `fs` of command `c`, in order and short of the last: the counter and their events. -/
structure AfterFrames (s : State) (c : CmdCode) (N : Nat) (fs : List Frame) (t : State) : Prop where
  good : t.Good
  cfg : t.cfg = s.cfg
  row : t.row c = { s.row c with rxcnt := BitVec.ofNat 16 fs.length }
  evq : t.evq = s.evq ++ acceptsInOrder c N fs

section
variable {s t : State} {c : CmdCode} {fam : Family} {fs : List Frame} {f : Frame} (hf : f[2] = c)
  (h : AfterFrames s c (expectedCount s c fam) fs t)
include h

theorem AfterFrames.expectedCount_eq : expectedCount t c fam = expectedCount s c fam := by
  cases fam <;> simp only [expectedCount, h.row]

variable (hlt : fs.length < expectedCount s c fam)
include hlt

theorem AfterFrames.countAfter_eq : countAfter t c = fs.length + 1 := by
  have := expectedCount_lt s c fam
  simp only [countAfter, h.row, BitVec.toNat_ofNat]
  omega

variable (hb : (s.row c).blocked = false) (hseq : seqNumber s f = fs.length + 1)
include hf hb hseq

/-- The frame that carries the next number is the next expected frame, and that number is its index. -/
theorem AfterFrames.nextExpected :
    NextExpected t fam f ∧ acceptedIndex (seqNumber t f) (countAfter t f[2]) fam = fs.length + 1 := by
  have hcount := h.countAfter_eq hlt
  have hseqt : seqNumber t f = fs.length + 1 := by rw [← hseq, seqNumber, h.cfg]; rfl
  subst hf
  rw [← hcount]
  refine nextExpected_of_seqNumber (by rw [h.row]; exact hb) ?_ (hseqt.trans hcount.symm)
  rw [hcount, h.expectedCount_eq]
  exact hlt

variable (now : Time) (hd : s.desc c = some fam)
include hd

/-- Short of the last frame the cycle goes on (R176). -/
theorem AfterFrames.process (hlast : fs.length + 1 ≠ expectedCount s c fam) :
    ∃ u, exec (.process f now true) t = .next u ∧ AfterFrames s c (expectedCount s c fam) (fs ++ [f]) u := by
  obtain ⟨hnext, hindex⟩ := h.nextExpected hf hlt hb hseq
  have hcount := h.countAfter_eq hlt
  have hN := h.expectedCount_eq
  subst hf
  obtain ⟨r, -, hexec⟩ := processAcceptsTheNextFrame f now t fam h.good ((State.desc_congr h.cfg _).trans hd) hnext
    (by rwa [hcount, hN])
  refine ⟨_, hexec, h.good, h.cfg, ?_, ?_⟩
  · rw [hcount, h.row]
    simp [afterRow, State.row]
  · simp only [afterRow, h.evq, acceptsInOrder_append, hindex, decide_eq_false hlast, List.append_assoc]

/-- The last frame completes the cycle (R178). -/
theorem AfterFrames.complete (hlast : fs.length + 1 = expectedCount s c fam) :
    ∃ u, exec (.process f now true) t = .next u ∧
      u.row c = { s.row c with rxcnt := 0, valid := true, vtime := now } ∧
      u.evq = s.evq ++ acceptsInOrder c (expectedCount s c fam) (fs ++ [f]) := by
  obtain ⟨hnext, hindex⟩ := h.nextExpected hf hlt hb hseq
  have hcount := h.countAfter_eq hlt
  have hN := h.expectedCount_eq
  subst hf
  obtain ⟨r, -, hexec⟩ := processCompletesOnTheLastFrame f now t fam h.good ((State.desc_congr h.cfg _).trans hd)
    hnext (by rwa [hcount, hN])
  refine ⟨_, hexec, ?_, ?_⟩
  · rw [h.row]
    simp [afterRow, State.row]
  · simp only [afterRow, h.evq, acceptsInOrder_append, hindex, decide_eq_true hlast, List.append_assoc]

end

/-- The frames of `fs` are of command `c` and carry the numbers 1, 2, … in their sequence bytes. -/
def NumberedFrom1 (s : State) (c : CmdCode) (fs : List Frame) : Prop :=
  ∀ (j : Nat) (hj : j < fs.length), fs[j][2] = c ∧ seqNumber s fs[j] = j + 1

section
variable {s : State} {c : CmdCode} {fam : Family} {fs : List Frame}
  (hg : s.Good) (hd : s.desc c = some fam) (hzero : (s.row c).rxcnt = 0) (hb : (s.row c).blocked = false)
  (hlen : fs.length = expectedCount s c fam) (hfs : NumberedFrom1 s c fs) (now : Time)
include hg hd hzero hb hlen hfs

/-- Fewer than `N` frames in order are accepted and do not complete the cycle. -/
theorem runAll_process_take {m : Nat} (hm : m < fs.length) :
    ∃ t, runAll ((fs.take m).map fun f => .process f now true) s = .next t ∧
      AfterFrames s c (expectedCount s c fam) (fs.take m) t := by
  induction m with
  | zero => exact ⟨s, rfl, hg, rfl, congrArg (fun n => { s.row c with rxcnt := n }) hzero, by simp [acceptsInOrder]⟩
  | succ m ih =>
    obtain ⟨t, hrun, h⟩ := ih (by omega)
    have hm' : m < fs.length := by omega
    have hl : (fs.take m).length = m := List.length_take_of_le hm'.le
    obtain ⟨hcmd, hseq⟩ := hfs m hm'
    obtain ⟨u, hexec, hu⟩ := h.process hcmd (by omega) hb (by rw [hseq, hl]) now hd (by omega)
    rw [List.take_succ_eq_append_getElem hm']
    exact ⟨u, runAll_process_concat hrun hexec, hu⟩

end

/-- Settles O59: the frames but the last leave the counter at their number, and the last finds it one short of `N`. The
family is not used: a frame that carries the counter's number is in sequence in every family
(`nextExpected_of_seqNumber`). -/
theorem inOrderFramesCompleteOnTheLast : Obligations.InOrderFramesCompleteOnTheLast := by
  intro s c fam fs now hg hd _ hzero hb hlen hne hfs
  refine ⟨?_, fun m hm => ?_⟩
  · have hpos : 0 < fs.length := List.length_pos_of_ne_nil hne
    have hlt : fs.length - 1 < fs.length := by omega
    have hl : (fs.take (fs.length - 1)).length = fs.length - 1 := List.length_take_of_le hlt.le
    have hsplit : fs.take (fs.length - 1) ++ [fs[fs.length - 1]] = fs := by
      rw [← List.take_succ_eq_append_getElem hlt, Nat.sub_add_cancel hpos, List.take_length]
    obtain ⟨t, hrun, h⟩ := runAll_process_take hg hd hzero hb hlen hfs now hlt
    obtain ⟨hcmd, hseq⟩ := hfs _ hlt
    obtain ⟨u, hexec, hrow, hevq⟩ := h.complete hcmd (by omega) hb (by rw [hseq, hl]) now hd (by omega)
    rw [hsplit, ← hlen] at hevq
    refine ⟨u, ?_, hrow, hevq⟩
    have hall := runAll_process_concat hrun hexec
    rwa [hsplit] at hall
  · obtain ⟨t, hrun, h⟩ := runAll_process_take hg hd hzero hb hlen hfs now hm
    refine ⟨t, hrun, ?_⟩
    rw [h.row, List.length_take_of_le hm.le]

end Sys2Proof.Machine

/-! Proofs for spec/43_value_decoders.md: where a packed result stands on RES, and what each decoder answers inside the
window. -/

namespace Sys2Proof.Machine

/-! ### Packed results on RES -/

/-- A field of a `k`-bit result is read back from RES, whatever the free bits above the result are (log entry 4). -/
theorem overlay_setWidth_extract {k : Nat} (x : BitVec k) (free : ResWord) (o w : Nat) (h : o + w ≤ k) (hk : k ≤ 104) :
    (overlay k (x.setWidth 104) free).extractLsb' o w = x.extractLsb' o w := by
  rw [overlay_extract k o w _ free h, extract_setWidth x o w h hk]

/-- The numerator of a rational on RES, exact where 33 bits of two's complement hold it (R210). -/
theorem overlay_rationalRes_num (num : Int) (den : Nat) (free : ResWord) (hlo : -2 ^ 32 ≤ num) (hhi : num < 2 ^ 32) :
    ((overlay 65 (rationalRes num den) free).extractLsb' 32 33).toInt = num := by
  rw [rationalRes, overlay_setWidth_extract _ free 32 33 (by omega) (by omega), BitVec.extractLsb'_append_eq_left]
  exact BitVec.toInt_ofInt_eq_self (by omega) hlo hhi

/-- The denominator of a rational on RES (R210). -/
theorem overlay_rationalRes_den (num : Int) (den : Nat) (free : ResWord) :
    (overlay 65 (rationalRes num den) free).extractLsb' 0 32 = BitVec.ofNat 32 den := by
  rw [rationalRes, overlay_setWidth_extract _ free 0 32 (by omega) (by omega), BitVec.extractLsb'_append_eq_right]

/-- Three bytes on RES (R217). -/
theorem overlay_tripleRes (a b c : Byte) (free : ResWord) :
    (overlay 24 (tripleRes a b c) free).extractLsb' 0 24 = a ++ b ++ c := by
  rw [tripleRes, overlay_setWidth_extract _ free 0 24 (by omega) (by omega), extract_whole]

/-- The number of a byte in eight bits of RES is the byte (R216). -/
theorem overlay_natRes_byte (b : Byte) (free : ResWord) :
    (overlay 8 (natRes b.toNat) free).extractLsb' 0 8 = b := by
  rw [natRes, BitVec.ofNat_toNat, overlay_setWidth_extract _ free 0 8 (by omega) (by omega), extract_whole]

/-- A state that answers the rational `num / den` without wrap (R210). -/
theorem exists_answer_rational (s : State) (num : Int) (den : Nat) (hlo : -2 ^ 32 ≤ num) (hhi : num < 2 ^ 32) :
    ∃ t, answerRational s num den = .next t ∧ t.status = .ok ∧ OnlyAnswer s t ∧
      (t.res.extractLsb' 32 33).toInt = num ∧ t.res.extractLsb' 0 32 = BitVec.ofNat 32 den :=
  ⟨_, rfl, rfl, answer_onlyAnswer s 65 _, overlay_rationalRes_num num den _ hlo hhi, overlay_rationalRes_den num den _⟩

/-! ### The decoders of fixed scale -/

/-- Settles O32: the raw value of one or two bytes is small, so every numerator fits in 33 bits. -/
theorem decodersAnswerExactRationals : Obligations.DecodersAnswerExactRationals := by
  intro f off s hg
  refine ⟨fun h => ?_, fun h => ?_⟩
  · rw [exec_decDeci s f off hg, exec_decMilli s f off hg, exec_decCurrent s f off hg]
    simp only [withRead_two s f off _ h, currentZero]
    refine ⟨?_, ?_, ?_⟩ <;> exact exists_answer_rational s _ _ (by omega) (by omega)
  · rw [exec_decTemp s f off hg, exec_decDuration s f off hg, exec_decBits s f off hg]
    simp only [withRead_one s f off _ h, tempBias, secondsPerMinute, Nat.cast_mul]
    refine ⟨?_, ?_, ?_⟩
    · exact exists_answer_rational s _ 1 (by omega) (by omega)
    · exact exists_answer_rational s _ 1 (by omega) (by omega)
    · exact ⟨_, rfl, rfl, answer_onlyAnswer s 8 _, overlay_natRes_byte _ _⟩

/-! ### Three raw bytes, and the caller's divisor -/

theorem withBytes_three (s : State) (f : Frame) (off : Byte) (run : List Byte → Outcome) (h : off.toNat + 3 ≤ 8) :
    withBytes s f off 3 run = run [f[4 + off.toNat], f[5 + off.toNat], f[6 + off.toNat]] := by
  simp only [withBytes, windowBytes_three s.cfg f off.toNat h]

/-- A zero divisor is refused before the window is looked at (R218, R219). -/
theorem scaled_zero (s : State) (f : Frame) (off : Byte) (n : Nat) :
    scaled s f off n 0 = .next (s.refuse .badOperand) :=
  if_pos rfl

theorem scaled_of_ne_zero (s : State) (f : Frame) (off : Byte) (n : Nat) {d : BitVec 32} (hd : d ≠ 0) :
    scaled s f off n d = withRead s f off n fun v => answerRational s v d.toNat :=
  if_neg hd

/-- A state that answers a raw value of at most 32 bits over the caller's divisor, unreduced (R218, R219). -/
theorem exists_answer_raw_over (s : State) (raw : Nat) (d : BitVec 32) (h : raw < 2 ^ 32) :
    ∃ t, answerRational s raw d.toNat = .next t ∧ t.status = .ok ∧ OnlyAnswer s t ∧ t.res.extractLsb' 0 32 = d ∧
      (t.res.extractLsb' 32 33).toInt = raw := by
  obtain ⟨t, hexec, hok, honly, hnum, hden⟩ := exists_answer_rational s raw d.toNat (by omega) (by omega)
  exact ⟨t, hexec, hok, honly, by rw [hden, BitVec.ofNat_toNat, BitVec.setWidth_eq], hnum⟩

/-- Settles O33: the read of two or four bytes happens only where the divisor is not 0. -/
theorem tripleAndScaledDecodersAnswer : Obligations.TripleAndScaledDecodersAnswer := by
  intro f off s hg
  refine ⟨fun h => ?_, fun d h hd => ?_, fun d h hd => ?_, ?_, ?_⟩
  · rw [exec_decTriple s f off hg, withBytes_three s f off _ h]
    exact ⟨_, rfl, rfl, answer_onlyAnswer s 24 _, overlay_tripleRes _ _ _ _⟩
  · rw [exec_decScaled16 s f off d hg, scaled_of_ne_zero s f off 2 hd, withRead_two s f off _ h]
    exact exists_answer_raw_over s _ d (by omega)
  · rw [exec_decScaled32 s f off d hg, scaled_of_ne_zero s f off 4 hd, withRead_four s f off _ h]
    exact exists_answer_raw_over s _ d (by omega)
  · rw [exec_decScaled16 s f off 0 hg, scaled_zero]
    exact ⟨_, rfl⟩
  · rw [exec_decScaled32 s f off 0 hg, scaled_zero]
    exact ⟨_, rfl⟩

end Sys2Proof.Machine

/-! Proofs for spec/60_exceptions.md: steps without an operation, the refusal while FAULT = 1, what raises WindowFault and what
it writes, the events of one byte step. -/

namespace Sys2Proof.Machine

/-! ### Steps without an operation -/

/-- With nothing pending the block is idle (R249; log entry 11). -/
theorem step_of_idle {s : State} (hin : s.inbox = []) : step s = .next s := by
  simp only [step, hin]

/-- Bytes of the link at the head of the inbox are appended to RXQ (R70). -/
theorem step_of_linkRx {s : State} {bytes : List Byte} {rest : List Input} (hin : s.inbox = .linkRx bytes :: rest) :
    step s = .next ({ s with inbox := rest }.linkAppend bytes) := by
  simp only [step, hin]

/-- Settles O9: the link's append writes RXQ only. -/
theorem idleStepAndLinkBytes : Obligations.IdleStepAndLinkBytes :=
  ⟨fun _ hin => step_of_idle hin, fun _ _ _ hin => step_of_linkRx hin⟩

/-! ### The refusal while FAULT = 1 -/

/-- Every instruction tests FAULT before anything else (R11, R239). -/
theorem exec_eq_guarded (i : Instr) (s : State) : ∃ run, exec i s = guarded s run := by
  cases i <;> exact ⟨_, rfl⟩

/-- Every encoded word does so too: a reserved OPSEL (log entry 21) and a frame word of no row (log entry 15) included. -/
theorem stepWord_eq_guarded (e : Encoded) (s : State) : ∃ run, stepWord e s = guarded s run := by
  cases hdec : decode e with
  | ok i => rw [stepWord_of_decode hdec]; exact exec_eq_guarded i s
  | error r =>
    simp only [stepWord, hdec]
    cases e with
    | op q => exact ⟨_, rfl⟩
    | frame w now ok => exact ⟨_, rfl⟩

/-- What tests FAULT first is refused while FAULT = 1, whatever it would have run (R232). -/
theorem exists_afterRefusal_of_guarded {s : State} {o : Outcome} (hf : s.block.fault = true)
    (ho : ∃ run, o = guarded s run) : ∃ r, o = .next (afterRefusal s .faulted r) := by
  obtain ⟨run, rfl⟩ := ho
  exact ⟨Config.freeRes s.draws, guarded_faulted s run hf⟩

/-- Settles O16: instructions and words alike test FAULT first, a word in the state without it in the inbox. -/
theorem everyOperationIsRefusedWhileFaulted : Obligations.EveryOperationIsRefusedWhileFaulted := by
  refine ⟨fun i s hf => exists_afterRefusal_of_guarded hf (exec_eq_guarded i s), fun e s rest hf hin => ?_⟩
  rw [step_of_instr hin]
  exact exists_afterRefusal_of_guarded (s := { s with inbox := rest }) hf (stepWord_eq_guarded e _)

/-! ### What keeps FAULT -/

/-- FAULT has the value that it has in `s`. -/
def SameFault (s t : State) : Prop := t.block.fault = s.block.fault

theorem SameFault.refl (s : State) : SameFault s s := rfl

theorem SameFault.trans (s t u : State) (h : SameFault s t) (h' : SameFault t u) : SameFault s u := Eq.trans h' h

theorem routeFrame_sameFault (s : State) (f : Frame) : SameFault s (s.routeFrame f) := by
  obtain ⟨d, events, e⟩ := routeFrame_frame s f
  rw [e]
  exact rfl

theorem processFrame_sameFault (s : State) (fam : Family) (f : Frame) : SameFault s (processFrame s fam f).state := by
  obtain ⟨d, events, e⟩ := processFrame_frame s fam f
  rw [e]
  exact rfl

theorem rxByte_sameFault (b : Byte) (s t : State) (h : rxByte b s = .ok t) : SameFault s t :=
  (rxByte_faultRegs h).1

theorem receiveBytes_sameFault (bs : List Byte) (s t : State) (h : receiveBytes bs s = .ok t) : SameFault s t :=
  receiveBytes_induct SameFault SameFault.refl SameFault.trans rxByte_sameFault bs s t h

theorem drainBytes_sameFault (s : State) (n : Nat) (t : State) (h : drainBytes s = .ok (n, t)) : SameFault s t :=
  drainLoop_induct SameFault SameFault.refl SameFault.trans rxByte_sameFault (fun _ _ => rfl)
    (fun s => congrArg Block.fault (linkTurn_block s)) _ _ _ s t h

/-- What is received is answered, unless the receiver is stuck. -/
theorem endsWith_answering {P : State → Prop} {r : Except Fault State} {finish : State → State}
    (h : ∀ t, r = .ok t → P (finish t)) : EndsWith P True (answering r finish) := by
  cases r with
  | ok t => exact h t rfl
  | error e => trivial

theorem receiveFrame_sameFault (f : Frame) (now : Time) (ok : Bool) (s : State) :
    EndsWith (SameFault s) True (receiveFrame f now ok s) :=
  endsWith_guarded rfl (endsWith_answering fun u hr => receiveBytes_sameFault f.toList (s.setPins now ok) u hr)

theorem execRxPoll_sameFault (now : Time) (ok : Bool) (s : State) :
    EndsWith (SameFault s) True (execRxPoll now ok s) := by
  refine endsWith_guarded rfl ?_
  cases hq : (s.setPins now ok).rxq with
  | nil => rw [poll_empty _ hq]; exact rfl
  | cons b q =>
    rw [poll_cons _ b q hq]
    exact endsWith_answering fun u hr => rxByte_sameFault b { s.setPins now ok with rxq := q } u hr

theorem execDrain_sameFault (now : Time) (ok : Bool) (s : State) :
    EndsWith (SameFault s) True (execDrain now ok s) := by
  refine endsWith_guarded rfl ?_
  cases hr : drainBytes (s.setPins now ok) with
  | ok x => exact drainBytes_sameFault (s.setPins now ok) x.1 x.2 hr
  | error e => trivial

theorem execTxFrame_sameFault (f : Frame) (now : Time) (ok : Bool) (s : State) :
    EndsWith (SameFault s) True (execTxFrame f now ok s) := by
  refine endsWith_guarded rfl ?_
  dsimp only
  cases hr : drainBytes (((s.setPins now ok).emit (.transmit f)).write f) with
  | ok x => exact drainBytes_sameFault (((s.setPins now ok).emit (.transmit f)).write f) x.1 x.2 hr
  | error e => trivial

/-- SETCOUNT on a present descriptor. -/
theorem setItemCount_sameFault (s : State) (c : CmdCode) (count : Byte) (fam : Family) :
    EndsWith (SameFault s) True (setItemCount s c count fam) := by
  cases fam <;> exact rfl

/-- Operations outside CODEC and VALDEC read no window: they keep FAULT (R63, R230). -/
theorem exec_sameFault_of_not_codec (i : Instr) (s : State) (hi : IsCodecOrValdec i = false) :
    EndsWith (SameFault s) True (exec i s) := by
  cases hf : frameOf i with
  | some x =>
    obtain ⟨f, now, ok⟩ := x
    rw [exec_frame i f now ok s hf]
    exact receiveFrame_sameFault f now ok s
  | none =>
    cases i <;> first | (cases hf; done) | (cases hi; done) | skip
    case rxPoll now ok => exact execRxPoll_sameFault now ok s
    case drain now ok => exact execDrain_sameFault now ok s
    case txFrame f now ok => exact execTxFrame_sameFault f now ok s
    all_goals refine endsWith_guarded rfl ?_
    case rxByte b now ok => exact endsWith_answering fun u hr => rxByte_sameFault b (s.setPins now ok) u hr
    case route f now ok => exact routeFrame_sameFault (s.setPins now ok) f
    all_goals refine endsWith_withDesc rfl fun fam _hd => ?_
    case setCount c count => exact setItemCount_sameFault s c count fam
    case process f now ok => exact processFrame_sameFault (s.setPins now ok) fam f
    all_goals exact rfl

/-! ### What WindowFault writes -/

/-- If FAULT = 1 in `t`, then `t` is `s` after WindowFault entry (R231). -/
def FaultedByWindowFault (s t : State) : Prop :=
  t.block.fault = true → t = afterWindowFault s t.block.faultcode t.block.faultinfo t.res

theorem windowFault_faultedByWindowFault (s : State) (code : BitVec 4) (info : BitVec 16) :
    FaultedByWindowFault s (s.windowFault code info) := fun _ => rfl

/-- From FAULT = 0, what keeps FAULT raises no fault. -/
theorem faultedByWindowFault_of_sameFault {s t : State} (hg : s.Good) (h : SameFault s t) : FaultedByWindowFault s t :=
  fun hf => absurd (h.symm.trans hf) (by simp [hg])

/-- Settles O17: a CODEC or VALDEC operation enters WindowFault or keeps FAULT, and every other operation keeps FAULT. -/
theorem windowFaultChangesNothingElse : Obligations.WindowFaultChangesNothingElse := by
  intro i s t hg h
  cases hi : IsCodecOrValdec i with
  | true =>
    exact exec_codec_induct i s t (FaultedByWindowFault s) hi h (windowFault_faultedByWindowFault s)
      (fun _ _ => faultedByWindowFault_of_sameFault hg rfl) (fun _ => faultedByWindowFault_of_sameFault hg rfl)
  | false => exact faultedByWindowFault_of_sameFault hg ((exec_sameFault_of_not_codec i s hi).of_next h)

/-! ### What raises WindowFault -/

section
variable {f : Frame} {off : Byte} {s : State}

/-- A number read outside the window: WF_BYTES with the offset and the size of the access (R63, R230). -/
theorem withRead_outside {n : Nat} (h : off.toNat + n > 8) (run : Nat → Outcome) :
    ∃ r, withRead s f off n run = .next (afterWindowFault s 1 (off ++ BitVec.ofNat 8 n) r) :=
  ⟨Config.freeRes s.draws, withRead_fault s f off n run h⟩

/-- A scaled decoder with a legal divisor looks at the window (R218, R219). -/
theorem scaled_outside {n : Nat} {d : BitVec 32} (h : off.toNat + n > 8) (hd : d ≠ 0) :
    ∃ r, scaled s f off n d = .next (afterWindowFault s 1 (off ++ BitVec.ofNat 8 n) r) := by
  rw [scaled_of_ne_zero s f off n hd]
  exact withRead_outside h _

/-- A bit position above 7 faults where the offset does not (R230, R239). -/
theorem exec_getBit_of_bitpos_gt {pos : Byte} (hg : s.Good) (hoff : off.toNat ≤ 7) (hpos : pos.toNat > 7) :
    ∃ r, exec (.getBit f off pos) s = .next (afterWindowFault s 2 (off ++ pos) r) := by
  rw [exec_getBit s f off pos hg, withRead_one s f off _ (by omega), if_pos hpos]
  exact ⟨Config.freeRes s.draws, rfl⟩

/-- A linear index above 63 faults (R230). -/
theorem exec_getBitL_of_idx_gt {idx : Byte} (hg : s.Good) (hidx : idx.toNat > 63) :
    ∃ r, exec (.getBitL f idx) s = .next (afterWindowFault s 3 (0#8 ++ idx) r) := by
  rw [exec_getBitL s f idx hg, if_pos hidx]
  exact ⟨Config.freeRes s.draws, rfl⟩

end

/-- Settles O29: each operation is, in a good state, a read of its number of bytes at its offset. -/
theorem accessOutsideTheWindowRaisesWindowFault : Obligations.AccessOutsideTheWindowRaisesWindowFault := by
  intro f off s hg
  refine ⟨fun h => ⟨?one, fun pos => ?bit⟩, fun h => ⟨?two, fun d hd => ?scaled16⟩, fun h => ?triple,
    fun h => ⟨?four, fun d hd => ?scaled32⟩, fun _ => exec_getBit_of_bitpos_gt hg, fun _ => exec_getBitL_of_idx_gt hg⟩
  case one =>
    simp only [List.forall_mem_cons, List.not_mem_nil, false_imp_iff, implies_true, and_true, exec_getU8 s f off hg,
      exec_decTemp s f off hg, exec_decDuration s f off hg, exec_decBits s f off hg]
    exact ⟨withRead_outside h _, withRead_outside h _, withRead_outside h _, withRead_outside h _⟩
  case bit => rw [exec_getBit s f off pos hg]; exact withRead_outside h _
  case two =>
    simp only [List.forall_mem_cons, List.not_mem_nil, false_imp_iff, implies_true, and_true, exec_getU16 s f off hg,
      exec_decDeci s f off hg, exec_decMilli s f off hg, exec_decCurrent s f off hg]
    exact ⟨withRead_outside h _, withRead_outside h _, withRead_outside h _, withRead_outside h _⟩
  case scaled16 => rw [exec_decScaled16 s f off d hg]; exact scaled_outside h hd
  case triple =>
    rw [exec_decTriple s f off hg]
    exact ⟨Config.freeRes s.draws, withBytes_fault s f off 3 _ h⟩
  case four => rw [exec_getU32 s f off hg]; exact withRead_outside h _
  case scaled32 => rw [exec_decScaled32 s f off d hg]; exact scaled_outside h hd

/-! ### The events of one byte step -/

/-- The orders of events that a byte step at time `now` can emit (R236). -/
def ListedOrder (now : Time) (new : List Event) : Prop :=
  new = [] ∨ (∃ f, new = [.error f]) ∨ (∃ f c, new = [.receive f, .unrouted c f]) ∨
    (∃ f c why n, new = [.receive f, .reject c why n]) ∨
    (∃ f c k p last, new = [.receive f, .accept c k p last, .decodeFail c k]) ∨
    (∃ f c k p, new = [.receive f, .accept c k p false]) ∨
    (∃ f c k p, new = [.receive f, .accept c k p true, .complete c now])

/-- A received frame and the events of its ROUTE are in a listed order. -/
theorem receive_routeFrame_listedOrder (s : State) (f : Frame) :
    ∃ new, ((s.emit (.receive f)).routeFrame f).evq = s.evq ++ new ∧ ListedOrder s.now new := by
  obtain ⟨new, hevq, horder⟩ := routeFrame_events (s.emit (.receive f)) f
  refine ⟨.receive f :: new, by simp [hevq], .inr (.inr ?_)⟩
  rcases horder with ⟨-, rfl⟩ | ⟨why, n, rfl⟩ | ⟨k, p, last, rfl⟩ | ⟨k, p, rfl⟩ | ⟨k, p, rfl⟩
  · exact .inl ⟨f, f[2], rfl⟩
  · exact .inr (.inl ⟨f, f[2], why, n, rfl⟩)
  · exact .inr (.inr (.inl ⟨f, f[2], k, p, last, rfl⟩))
  · exact .inr (.inr (.inr (.inl ⟨f, f[2], k, p, rfl⟩)))
  · exact .inr (.inr (.inr (.inr ⟨f, f[2], k, p, rfl⟩)))

/-- A byte step inside a window emits nothing; the last byte of one emits `Error`, or `Receive` and ROUTE's events (R143). -/
theorem rxByte_listedOrder {b : Byte} {s t : State} (h : rxByte b s = .ok t) :
    ∃ new, t.evq = s.evq ++ new ∧ ListedOrder s.now new := by
  rcases rxByte_cases h with ⟨buf, p, i, rfl⟩ | ⟨f, -, rfl⟩ | ⟨f, -, rfl⟩
  · exact ⟨[], (List.append_nil _).symm, .inl rfl⟩
  · exact ⟨[.error f], rfl, .inr (.inl ⟨f, rfl⟩)⟩
  · exact receive_routeFrame_listedOrder (s.withParser f .wfs 0) f

/-- Settles O48: RXBYTE is one byte step with the pin NOW at the operand's level. -/
theorem rxByteEmitsOneOfTheListedOrders : Obligations.RxByteEmitsOneOfTheListedOrders := by
  intro b now ok s t hg h
  cases hr : rxByte b (s.setPins now ok) with
  | error e => rw [exec_rxByte s b now ok hg, hr] at h; cases h
  | ok u =>
    rw [exec_rxByte_of_ok hg hr] at h
    cases h
    exact rxByte_listedOrder hr

end Sys2Proof.Machine

/-! Proofs for spec/70_reset_and_hazards.md: what clears VALID, and the host's static duties that keep FAULT. -/

namespace Sys2Proof.Machine

/-! ### VALID is cleared by a decode failure only -/

/-- The rule that VALID of row `c` is cleared only where a frame of `c` fails to decode (R172, R179, R260). -/
def ValidClearedOnDecodeFail (c : CmdCode) (d : Desc) (new : List Event) (d' : Desc) : Prop :=
  d.valid = true → d'.valid = false → ∃ k, .decodeFail c k ∈ new

/-- Where VALID stays set, nothing is asked of the events. -/
theorem validClearedOnDecodeFail_of_kept {c : CmdCode} {d d' : Desc} (new : List Event)
    (hkept : d.valid = true → d'.valid = true) : ValidClearedOnDecodeFail c d new d' :=
  fun hv hv' => absurd (hkept hv) (by simp [hv'])

theorem historyRule_validClearedOnDecodeFail (c : CmdCode) : HistoryRule (ValidClearedOnDecodeFail c) where
  nil _ := validClearedOnDecodeFail_of_kept _ id
  append {d d' _ _ _} h h' hv hv'' := by
    cases hmid : d'.valid with
    | false =>
      obtain ⟨k, hmem⟩ := h hv hmid
      exact ⟨k, List.mem_append_left _ hmem⟩
    | true =>
      obtain ⟨k, hmem⟩ := h' hmid hv''
      exact ⟨k, List.mem_append_right _ hmem⟩
  transmit _ _ := validClearedOnDecodeFail_of_kept _ id
  error _ _ := validClearedOnDecodeFail_of_kept _ id

/-- An event changes no row. -/
theorem emit_validClearedOnDecodeFail (c : CmdCode) (s : State) (e : Event) :
    RowHistory (ValidClearedOnDecodeFail c) c s (s.emit e) :=
  ⟨[e], rfl, validClearedOnDecodeFail_of_kept _ id⟩

/-- A row written with VALID still set where it was. -/
theorem setRow_validClearedOnDecodeFail (c : CmdCode) (s : State) (c' : CmdCode) (d : Desc)
    (hd : (s.row c').valid = true → d.valid = true) :
    RowHistory (ValidClearedOnDecodeFail c) c s (s.setRow c' d) := by
  refine ⟨[], by simp, validClearedOnDecodeFail_of_kept _ fun hv => ?_⟩
  rw [State.row_setRow]
  split
  · next hc => exact hd (hc ▸ hv)
  · exact hv

/-- A rejected frame leaves VALID, an accepted one leaves or sets it, and a decode failure clears it with its event
(R174, R179, R180). -/
theorem processFrame_validClearedOnDecodeFail (c : CmdCode) (s : State) (fam : Family) (f : Frame) :
    RowHistory (ValidClearedOnDecodeFail c) c s (processFrame s fam f).state := by
  have hkept (d : Desc) (e : Event) (hd : (s.row f[2]).valid = true → d.valid = true) :
      RowHistory (ValidClearedOnDecodeFail c) c s ((s.setRow f[2] d).emit e) :=
    (historyRule_validClearedOnDecodeFail c).trans _ _ _ (setRow_validClearedOnDecodeFail c s f[2] d hd)
      (emit_validClearedOnDecodeFail c _ e)
  have hrow (hc : c ≠ f[2]) := processFrame_row_ne s fam f hc
  rcases processFrame_cases s fam f with ⟨why, -, e⟩ | ⟨-, -, -, e⟩ | ⟨-, -, -, e⟩ | ⟨-, -, e⟩ <;> rw [e] at hrow ⊢
  case inl => exact hkept _ _ id
  case inr.inl => exact hkept _ _ id
  case inr.inr.inl => exact hkept _ _ fun _ => rfl
  case inr.inr.inr =>
    refine ⟨_, congrArg State.evq (State.emit_emit _ _ _), ?_⟩
    by_cases hc : c = f[2]
    · exact fun _ _ => ⟨_, by rw [hc]; exact List.mem_cons_of_mem _ List.mem_cons_self⟩
    · exact validClearedOnDecodeFail_of_kept _ fun hv => by rwa [hrow hc]

/-- ROUTE is PROCESS with at most one event more (R173). -/
theorem routeFrame_validClearedOnDecodeFail (c : CmdCode) (s : State) (f : Frame) :
    RowHistory (ValidClearedOnDecodeFail c) c s (s.routeFrame f) := by
  cases hd : s.desc f[2] with
  | none => rw [routeFrame_absent s f hd]; exact emit_validClearedOnDecodeFail c s _
  | some fam =>
    have hprocess := processFrame_validClearedOnDecodeFail c s fam f
    cases hc : (processFrame s fam f).completed with
    | false => rwa [routeFrame_incomplete s f fam hd hc]
    | true =>
      rw [routeFrame_complete s f fam hd hc]
      exact (historyRule_validClearedOnDecodeFail c).trans _ _ _ hprocess (emit_validClearedOnDecodeFail c _ _)

/-- Every instruction clears VALID only with a decode failure: the receiver and ROUTE through PROCESS, and the writes of
PREPARE, SETVALID and SETCOUNT not at all. -/
theorem exec_validClearedOnDecodeFail (c : CmdCode) {i : Instr} {s t : State} (h : exec i s = .next t) :
    RowHistory (ValidClearedOnDecodeFail c) c s t := by
  have hrule := historyRule_validClearedOnDecodeFail c
  cases hi : WritesRow i with
  | false =>
    exact hrule.exec_receive (fun s f => hrule.trans _ _ _ (emit_validClearedOnDecodeFail c s (.receive f))
      (routeFrame_validClearedOnDecodeFail c _ f)) hi h
  | true =>
    have hpins (now : Time) (ok : Bool) : RowHistory (ValidClearedOnDecodeFail c) c s (s.setPins now ok) :=
      hrule.quiet _ _ rfl rfl
    refine exec_row_induct (RowHistory (ValidClearedOnDecodeFail c) c) hrule.trans hrule.quiet i s t hi ?prepare ?valid
      ?count ?route ?process h
    case prepare => exact fun c' _ _ => setRow_validClearedOnDecodeFail c s c' _ id
    case valid => exact fun c' now _ => setRow_validClearedOnDecodeFail c (s.setNow now) c' _ fun _ => rfl
    case count => exact fun c' _ _ => setRow_validClearedOnDecodeFail c s c' _ id
    case route =>
      exact fun f now ok _ => hrule.trans _ _ _ (hpins now ok) (routeFrame_validClearedOnDecodeFail c _ f)
    case process =>
      exact fun f now ok fam _ _ => hrule.trans _ _ _ (hpins now ok) (processFrame_validClearedOnDecodeFail c _ fam f)

/-- Settles O19: the history of row `c` over the instruction, read as the instruction's new events. -/
theorem onlyDecodeFailureClearsValid : Obligations.OnlyDecodeFailureClearsValid := fun _ _ _ c h =>
  (exec_validClearedOnDecodeFail c h).holds_newEvents

/-! ### The host's static duties -/

section
variable {P : State → Prop} {stuck : Prop} {s : State} {f : Frame} {off : Byte} {n : Nat}

/-- An access inside the window raises no fault (R63). -/
theorem endsWith_withBytes_inside {run : List Byte → Outcome} (h : off.toNat + n ≤ 8)
    (hrun : ∀ bs, EndsWith P stuck (run bs)) : EndsWith P stuck (withBytes s f off n run) := by
  rw [withBytes, windowBytes_some s.cfg f off.toNat n h]
  exact hrun _

theorem endsWith_withRead_inside {run : Nat → Outcome} (h : off.toNat + n ≤ 8)
    (hrun : ∀ v, EndsWith P stuck (run v)) : EndsWith P stuck (withRead s f off n run) :=
  endsWith_withBytes_inside h fun _ => hrun _

/-- A scaled decoder inside the window answers; with a zero divisor it is refused (R218, R219). -/
theorem scaled_sameFault {divisor : BitVec 32} (h : off.toNat + n ≤ 8) :
    EndsWith (SameFault s) True (scaled s f off n divisor) := by
  unfold scaled
  split
  · exact SameFault.refl s
  · exact endsWith_withRead_inside h fun _ => SameFault.refl s

end

/-- A CODEC or VALDEC operation with legal operands keeps FAULT: its access is inside the window and its bit position or
index in range (R276, R220). -/
theorem exec_codec_sameFault (i : Instr) (s : State) (hi : IsCodecOrValdec i = true) (hw : i.wellFormed = true) :
    EndsWith (SameFault s) True (exec i s) := by
  cases i <;> try (cases hi; done)
  all_goals refine endsWith_guarded (SameFault.refl s) ?_
  case checksum => exact SameFault.refl s
  case encode => exact SameFault.refl s
  case decode => exact SameFault.refl s
  case validate => exact SameFault.refl s
  case getBit f off pos =>
    obtain ⟨hoff, hpos⟩ : off.toNat + 1 ≤ 8 ∧ pos.toNat ≤ 7 := by simpa [Instr.wellFormed, payloadSize] using hw
    refine endsWith_withRead_inside hoff fun v => ?_
    rw [if_neg (Nat.not_lt.mpr hpos)]
    exact SameFault.refl s
  case getBitL f idx =>
    have hidx : idx.toNat ≤ 63 := of_decide_eq_true hw
    rw [if_neg (Nat.not_lt.mpr hidx)]
    refine endsWith_withRead_inside ?_ fun v => SameFault.refl s
    rw [BitVec.toNat_ofNat]
    omega
  case decTriple => exact endsWith_withBytes_inside (of_decide_eq_true hw) fun _ => SameFault.refl s
  case decScaled16 => exact scaled_sameFault (of_decide_eq_true (Bool.and_eq_true_iff.mp hw).1)
  case decScaled32 => exact scaled_sameFault (of_decide_eq_true (Bool.and_eq_true_iff.mp hw).1)
  all_goals exact endsWith_withRead_inside (of_decide_eq_true hw) fun _ => SameFault.refl s

/-- Settles O18: only CODEC and VALDEC operations read the window, and a well-formed one stays inside it. -/
theorem wellFormedInstructionRaisesNoFault : Obligations.WellFormedInstructionRaisesNoFault := by
  intro i s t hw h
  cases hi : IsCodecOrValdec i with
  | true => exact (exec_codec_sameFault i s hi hw).of_next h
  | false => exact (exec_sameFault_of_not_codec i s hi).of_next h

end Sys2Proof.Machine
